-- ==== Sys2Proof/Word.lean ====
section
/-! DEFINITION. The word types of the Pbus Frame Engine: bytes and fixed-length byte arrays (00_scope.md R16, R18). -/

namespace Sys2Proof

/-- A byte value on a port or in a register: 8 bits, unsigned (R16). -/
abbrev Byte := BitVec 8

/-- A fixed-length byte array such as `rd_data[0..7]`; index 0 is the byte sent or received first (R18). -/
abbrev Bytes (n : Nat) := Vector Byte n

/-- The 108-bit command word of R84. -/
abbrev CmdWord := BitVec 108

/-- The 11-bit receive-event word of R88. -/
abbrev RxWord := BitVec 11

end Sys2Proof
end

