-- ==== Sys2Proof/Syntax.lean ====
section
/-! DEFINITION. The instructions of the PFE: the host commands of 30_encoding.md section 2 and the receive-event classes of
section 3, one constructor per row of spec/opcode_table.json. -/

namespace Sys2Proof

/-- An instruction. A command keeps every field of its 108-bit word (R84), also the ones it does not read (R86); a receive
event keeps the bits of its 11-bit word that its class leaves free (R88). -/
inductive Instr where
  /-- NOP, op 0x0 (R139). -/
  | nop (addr len : Byte) (data : Bytes 11)
  /-- BUILD, op 0x1 (R98). -/
  | build (addr len : Byte) (data : Bytes 11)
  /-- CKSUM, op 0x2 (R99). -/
  | cksum (addr len : Byte) (data : Bytes 11)
  /-- SEND, op 0x3 (R126). -/
  | send (addr len : Byte) (data : Bytes 11)
  /-- CLRST, op 0x4; the mask is `data[0]` (R140). -/
  | clrst (addr len : Byte) (data : Bytes 11)
  /-- The reserved opcode 0x5 (R141). -/
  | rsv5 (addr len : Byte) (data : Bytes 11)
  /-- The reserved opcodes 0x6 and 0x7 (R141). -/
  | rsv67 (op : BitVec 4) (addr len : Byte) (data : Bytes 11)
  /-- The reserved opcodes 0x8 to 0xF (R141). -/
  | rsv8f (op : BitVec 4) (addr len : Byte) (data : Bytes 11)
  /-- RX_ERR: bit 10 is 1 (R88, R105). -/
  | rxErr (byte : Byte) (valid eos : Bool)
  /-- RX_EOS: bit 10 is 0, bit 9 is 1 (R88, R105). -/
  | rxEos (byte : Byte) (valid : Bool)
  /-- RX_BYTE: bits 10:9 are 00, bit 8 is 1 (R88, R103). -/
  | rxByte (byte : Byte)
  /-- RX_IDLE: bits 10:8 are 000 (R88, R103). -/
  | rxIdle (byte : Byte)
  deriving DecidableEq, Repr

end Sys2Proof
end

