-- ==== Sys2Proof/WellFormed.lean ====
section
/-! DEFINITION. Which terms of `Instr` stand for an encoding: the reserved-opcode constructors carry their opcode, which must be
one their table row covers (30_encoding.md R85, R87). Every other field may take every value of its width. -/

namespace Sys2Proof

/-- `i` stands for a word of its row. RSV_6_7 covers 0x6 and 0x7, RSV_8_F covers 0x8 to 0xF (R85); no other row has a
check. -/
def Instr.wellFormed : Instr → Bool
  | .nop _ _ _ => true
  | .build _ _ _ => true
  | .cksum _ _ _ => true
  | .send _ _ _ => true
  | .clrst _ _ _ => true
  | .rsv5 _ _ _ => true
  | .rsv67 op _ _ _ => op == 0x6 || op == 0x7
  | .rsv8f op _ _ _ => 8 ≤ op.toNat
  | .rxErr _ _ _ => true
  | .rxEos _ _ => true
  | .rxByte _ => true
  | .rxIdle _ => true

/-- `i` is a host command (30_encoding.md section 2), not a receive event. -/
def Instr.isCommand : Instr → Bool
  | .nop _ _ _ => true
  | .build _ _ _ => true
  | .cksum _ _ _ => true
  | .send _ _ _ => true
  | .clrst _ _ _ => true
  | .rsv5 _ _ _ => true
  | .rsv67 _ _ _ _ => true
  | .rsv8f _ _ _ _ => true
  | .rxErr _ _ _ => false
  | .rxEos _ _ => false
  | .rxByte _ => false
  | .rxIdle _ => false

end Sys2Proof
end

