-- ==== Sys2Proof/Decode.lean ====
section
/-! DEFINITION. Decoding of the 108-bit command word (R84, R85) and of the 11-bit receive-event word (R88), the byte form of
both, and the encoder written from the same tables. -/

namespace Sys2Proof

/-- The port a word is presented on. -/
inductive Port where
  /-- The command port (R25). -/
  | command
  /-- The receive port (R28). -/
  | receive
  deriving DecidableEq, Repr

/-- A word on one of the two ports that carry instructions. -/
inductive PortWord where
  | command (w : CmdWord)
  | receive (w : RxWord)
  deriving DecidableEq, Repr

/-- Why a byte string is no word of a port. -/
inductive DecodeError where
  /-- The string is not 14 bytes (command) or 2 bytes (receive event) long. -/
  | wrongLength
  /-- A bit above bit 107 (command) or bit 10 (receive event) is 1. -/
  | paddingNotZero
  deriving DecidableEq, Repr

/-- `op`, bits 3:0 (R84). -/
def opField (w : CmdWord) : BitVec 4 := w.extractLsb' 0 4

/-- `addr`, bits 11:4 (R84). -/
def addrField (w : CmdWord) : Byte := w.extractLsb' 4 8

/-- `len`, bits 19:12 (R84). -/
def lenField (w : CmdWord) : Byte := w.extractLsb' 12 8

/-- `data[k]`, bits 27+8k : 20+8k, for k = 0..10 (R84). -/
def dataField (w : CmdWord) : Bytes 11 := Vector.ofFn fun k => w.extractLsb' (20 + 8 * k.val) 8

/-- The instruction of a command word: the opcode map of R85. Every opcode has a row. -/
def decodeCommand (w : CmdWord) : Instr :=
  match (opField w).toNat with
  | 0 => .nop (addrField w) (lenField w) (dataField w)
  | 1 => .build (addrField w) (lenField w) (dataField w)
  | 2 => .cksum (addrField w) (lenField w) (dataField w)
  | 3 => .send (addrField w) (lenField w) (dataField w)
  | 4 => .clrst (addrField w) (lenField w) (dataField w)
  | 5 => .rsv5 (addrField w) (lenField w) (dataField w)
  | 6 => .rsv67 0x6 (addrField w) (lenField w) (dataField w)
  | 7 => .rsv67 0x7 (addrField w) (lenField w) (dataField w)
  | _ => .rsv8f (opField w) (addrField w) (lenField w) (dataField w)

/-- The class of a receive-event word, in the priority of R88. -/
def decodeReceive (w : RxWord) : Instr :=
  if w.getLsbD 10 then .rxErr (w.extractLsb' 0 8) (w.getLsbD 8) (w.getLsbD 9)
  else if w.getLsbD 9 then .rxEos (w.extractLsb' 0 8) (w.getLsbD 8)
  else if w.getLsbD 8 then .rxByte (w.extractLsb' 0 8)
  else .rxIdle (w.extractLsb' 0 8)

/-- The instruction of a port's word. Total: every word of either port has a meaning (R85, R88). -/
def decodeWord : PortWord → Instr
  | .command w => decodeCommand w
  | .receive w => decodeReceive w

/-- The number whose bytes are `bs`, the first byte least significant. -/
def natOfBytes : List Byte → Nat
  | [] => 0
  | b :: bs => b.toNat + 256 * natOfBytes bs

/-- The `k` lowest bytes of `n`, the least significant first. -/
def bytesOfNat : Nat → Nat → List Byte
  | 0, _ => []
  | k + 1, n => BitVec.ofNat 8 n :: bytesOfNat k (n / 256)

/-- The decoder on bytes: 14 bytes hold a command word and 2 bytes a receive-event word, bit 0 the least significant bit of
the first byte, the bits above the word 0. Any other string is rejected by name. The byte form is the model's: the ports are
108 and 11 wires wide (log 10). -/
def decode (port : Port) (bytes : List Byte) : Except DecodeError Instr :=
  match port with
  | .command =>
    if bytes.length ≠ 14 then .error .wrongLength
    else if 2 ^ 108 ≤ natOfBytes bytes then .error .paddingNotZero
    else .ok (decodeCommand (BitVec.ofNat 108 (natOfBytes bytes)))
  | .receive =>
    if bytes.length ≠ 2 then .error .wrongLength
    else if 2 ^ 11 ≤ natOfBytes bytes then .error .paddingNotZero
    else .ok (decodeReceive (BitVec.ofNat 11 (natOfBytes bytes)))

/-- The command word of R84 with the given fields. -/
def packCommand (op : BitVec 4) (addr len : Byte) (data : Bytes 11) : CmdWord :=
  data[10] ++ data[9] ++ data[8] ++ data[7] ++ data[6] ++ data[5] ++ data[4] ++ data[3] ++ data[2] ++ data[1] ++ data[0]
    ++ len ++ addr ++ op

/-- The receive-event word of R88 with the given fields. -/
def packReceive (err eos valid : Bool) (byte : Byte) : RxWord :=
  BitVec.ofBool err ++ BitVec.ofBool eos ++ BitVec.ofBool valid ++ byte

/-- The word of a well-formed instruction (R84, R85, R88). -/
def encode : Instr → PortWord
  | .nop a l d => .command (packCommand 0x0 a l d)
  | .build a l d => .command (packCommand 0x1 a l d)
  | .cksum a l d => .command (packCommand 0x2 a l d)
  | .send a l d => .command (packCommand 0x3 a l d)
  | .clrst a l d => .command (packCommand 0x4 a l d)
  | .rsv5 a l d => .command (packCommand 0x5 a l d)
  | .rsv67 op a l d => .command (packCommand op a l d)
  | .rsv8f op a l d => .command (packCommand op a l d)
  | .rxErr b valid eos => .receive (packReceive true eos valid b)
  | .rxEos b valid => .receive (packReceive false true valid b)
  | .rxByte b => .receive (packReceive false false true b)
  | .rxIdle b => .receive (packReceive false false false b)

/-- The port a word stands on. -/
def PortWord.port : PortWord → Port
  | .command _ => .command
  | .receive _ => .receive

/-- The byte form of a word that `decode` reads (log 10). -/
def PortWord.toBytes : PortWord → List Byte
  | .command w => bytesOfNat 14 w.toNat
  | .receive w => bytesOfNat 2 w.toNat

/-- Which port's word a table word of `nbits` bits is: the receive-event rows of spec/opcode_table.json have 11 bits, two
bytes; every other count stands for a command word, of which the table gives 4 bits (log 10). -/
def tablePort (nbits : Nat) : Port := if 8 < nbits ∧ nbits ≤ 16 then .receive else .command

/-- The port word with the bits `w`; bits above the port's 108 or 11 wires drive nothing. -/
def tableWord (nbits w : Nat) : PortWord :=
  match tablePort nbits with
  | .command => .command (BitVec.ofNat 108 w)
  | .receive => .receive (BitVec.ofNat 11 w)

/-- What the decoder reads from an instruction whose bits are `w`, numbered as spec/opcode_table.json numbers them. -/
def decodeTableWord (nbits w : Nat) : Option Instr :=
  match decode (tableWord nbits w).port (tableWord nbits w).toBytes with
  | .ok i => some i
  | .error _ => none

end Sys2Proof
end

