-- ==== Sys2Proof/Machine/Ports.lean ====
section
/-! DEFINITION. The input side of the PFE's ports in one clock cycle (10_state.md section 1, R24 to R32). -/

namespace Sys2Proof.Machine

/-- The value of every input port in one clock cycle. The command-port inputs are held as the 108-bit word that R84 makes
of them, and the receive-port inputs as the 11-bit word of R88; the accessors below give the single pins. -/
structure Inputs where
  /-- `rst`, synchronous reset, active high (R23, R157). -/
  rst : Bool
  /-- `cmd_valid`: the host presents a command (R24). -/
  cmdValid : Bool
  /-- `cmd_op`, `cmd_addr`, `cmd_len`, `cmd_data[0..10]`, packed as R84 says. -/
  cmdWord : CmdWord
  /-- `rx_byte`, `rx_valid`, `rx_eos`, `rx_err`, packed as R88 says. -/
  rxWord : RxWord
  /-- `rxf_ready`: the frame consumer takes the frame this cycle (R119). -/
  rxfReady : Bool
  /-- `tx_ready`: the transport accepts a whole frame this cycle (R30). -/
  txReady : Bool
  /-- `link_up`: the Supervisor's Online state (R32). -/
  linkUp : Bool
  deriving DecidableEq, Repr, Inhabited

/-- `cmd_op` (R84, bits 3:0). -/
def Inputs.cmdOp (i : Inputs) : BitVec 4 := i.cmdWord.extractLsb' 0 4

/-- `cmd_addr` (R84, bits 11:4). -/
def Inputs.cmdAddr (i : Inputs) : Byte := i.cmdWord.extractLsb' 4 8

/-- `cmd_len` (R84, bits 19:12). -/
def Inputs.cmdLen (i : Inputs) : Byte := i.cmdWord.extractLsb' 12 8

/-- `cmd_data[0..10]` (R84, `data[k]` at bits 27+8k : 20+8k). -/
def Inputs.cmdData (i : Inputs) : Bytes 11 := Vector.ofFn fun k => i.cmdWord.extractLsb' (20 + 8 * k.val) 8

/-- `rx_byte` (R88, bits 7:0). -/
def Inputs.rxByte (i : Inputs) : Byte := i.rxWord.extractLsb' 0 8

/-- `rx_valid` (R88, bit 8). -/
def Inputs.rxValid (i : Inputs) : Bool := i.rxWord.getLsbD 8

/-- `rx_eos` (R88, bit 9). -/
def Inputs.rxEos (i : Inputs) : Bool := i.rxWord.getLsbD 9

/-- `rx_err` (R88, bit 10). -/
def Inputs.rxErr (i : Inputs) : Bool := i.rxWord.getLsbD 10

/-- The row of R93 with no command and an idle receive port: `link_up`, `tx_ready` and `rxf_ready` are 1 and `rst` is 0
"unless the row says otherwise". -/
def Inputs.idleRow : Inputs :=
  { rst := false, cmdValid := false, cmdWord := 0, rxWord := 0, rxfReady := true, txReady := true, linkUp := true }

/-- The row of R93 that presents the command word `w`. -/
def Inputs.commandRow (w : CmdWord) : Inputs := { Inputs.idleRow with cmdValid := true, cmdWord := w }

/-- The row of R93 that presents the receive-event word `w`. -/
def Inputs.receiveRow (w : RxWord) : Inputs := { Inputs.idleRow with rxWord := w }

end Sys2Proof.Machine
end

