-- ==== Sys2Proof/Config.lean ====
section
/-! DEFINITION. What an implementation of the PFE fixes (00_scope.md section 4, R8 to R16) and the model's free values. -/

namespace Sys2Proof

/-- `STX` = 0x0F (R8). UNVERIFIED: the source's literal is unaudited (log 15). -/
abbrev Config.stx : Byte := 0x0F

/-- `ETX` = 0x04 (R8). UNVERIFIED: the source's literal is unaudited (log 15). -/
abbrev Config.etx : Byte := 0x04

/-- `MAX_DATA` = 8, the largest DATA length and the fallback threshold (R8, R79). UNVERIFIED (log 15). -/
abbrev Config.maxData : Nat := 8

/-- `CKSUM_MAX` = 11, the largest operand count of CKSUM (R15). -/
abbrev Config.cksumMax : Nat := 11

/-- The legal values of `P_FALLBACK_CKSUM` (R14). -/
inductive FallbackCksum where
  /-- The checksum of a fallback frame covers `[STX, ADDRESS, 0x01, D0]`. -/
  | implied
  /-- The checksum of a fallback frame covers `[STX, ADDRESS, D0]`, the bytes received. -/
  | raw
  deriving DecidableEq, Repr

/-- The parameters the rules read (00_scope.md section 4). They are fixed when the block is built (R160). -/
structure Params where
  /-- `P_SPACING_CYCLES`, `S` in the rules (R11). -/
  spacing : Nat
  /-- `P_TXQ_DEPTH` (R12). -/
  txqDepth : Nat
  /-- `P_DRAIN_ON_ERROR` (R13). -/
  drainOnError : Bool
  /-- `P_FALLBACK_CKSUM` (R14). -/
  fallbackCksum : FallbackCksum
  deriving DecidableEq, Repr

/-- The legal parameter values: `S >= 1` (R11) and `P_TXQ_DEPTH` from 1 to 15 (R12). -/
def Params.legal (p : Params) : Prop := 1 ≤ p.spacing ∧ 1 ≤ p.txqDepth ∧ p.txqDepth ≤ 15

/-- `W_SP`, the width of the spacing counter: `max(1, ceil(log2(S)))` (00_scope.md section 4, R16). -/
def Params.spWidth (p : Params) : Nat := max 1 (Nat.clog 2 p.spacing)

/-- `P_CLK_HZ`, the clock frequency in hertz: OPEN, a positive integer (R10). It has no body: no proof can see its value
(log 4). -/
opaque Config.clkHz : PNat

/-- `P_MIN_SPACING_MS` = 60 (R9). UNVERIFIED: the source's literal is unaudited (log 15). -/
def Config.minSpacingMs : Nat := 60

/-- `ceil(ms * hz / 1000)`, the cycles of a clock of `hz` hertz that last at least `ms` milliseconds (R11). -/
def Config.spacingCycles (ms hz : Nat) : Nat := (ms * hz + 999) / 1000

/-- The parameters of this hardware: `S` from the open clock frequency (R11), queue depth 4 (R12), drain on (R13),
fallback checksum IMPLIED (R14). -/
def Config.params : Params :=
  { spacing := Config.spacingCycles Config.minSpacingMs Config.clkHz.val
    txqDepth := 4
    drainOnError := true
    fallbackCksum := .implied }

/-- The free value of the model: the inputs of a cycle for which the state lists no input row. "Every environment input is
free in every cycle" (R7). It has no body; row `n` is the `n`-th one drawn (log 1). -/
opaque Config.freeInputs : Nat → Machine.Inputs

end Sys2Proof
end

