-- ==== Sys2Proof/Machine/State.lean ====
section
/-! DEFINITION. The state of the PFE (10_state.md section 2, R37 to R42) beside the environment's input rows, its reset value
(R53), and the reasons a step could stop for (there are none: R21). -/

namespace Sys2Proof.Machine

/-- `rd_state` (R38). The unreachable encoding 7 is left out of the type, as R45 allows (log 8). -/
inductive RdState where
  /-- `S_STX`, the source's `AwaitSTX`. -/
  | stx
  /-- `S_ADDR`, the source's `AwaitAddress`. -/
  | addr
  /-- `S_LEN`, the source's `AwaitLength`. -/
  | len
  /-- `S_DATA`, the source's `ReadingData`. -/
  | data
  /-- `S_CKS`, the source's `AwaitChecksum`. -/
  | cks
  /-- `S_ETX`, the source's `AwaitETX`. -/
  | etx
  /-- `S_DRAIN`, the drain of the source's resync. -/
  | drain
  deriving DecidableEq, Repr

/-- The reader's registers (R37). -/
structure Reader where
  /-- `rd_state`. -/
  state : RdState
  /-- `rd_addr`: ADDRESS of the frame being received. -/
  addr : Byte
  /-- `rd_len`: declared or implied LENGTH. -/
  len : BitVec 4
  /-- `rd_cnt`: DATA bytes stored so far. -/
  cnt : BitVec 4
  /-- `rd_data[0..7]`: DATA bytes of the frame being received. -/
  data : Bytes 8
  /-- `rd_fb`: the frame is in the fallback short form. -/
  fb : Bool
  /-- `rd_closed`: set by end of stream or read failure, until `link_up = 0`. -/
  closed : Bool
  deriving DecidableEq, Repr

/-- The frame output register (R39). -/
structure RxFrame where
  /-- `rxf_valid_reg`: a received frame waits for the consumer. -/
  valid : Bool
  /-- `rxf_addr_reg`. -/
  addr : Byte
  /-- `rxf_len_reg`. -/
  len : BitVec 4
  /-- `rxf_data_reg[0..7]`. -/
  data : Bytes 8
  deriving DecidableEq, Repr

/-- An entry of the transmit queue (R40): the fields of a frame, not its bytes. -/
structure TxEntry where
  addr : Byte
  len : BitVec 4
  data : Bytes 8
  deriving DecidableEq, Repr

/-- `res_code` (R90); each of the four 2-bit values has a name. -/
inductive ResCode where
  /-- 0 OK. -/
  | ok
  /-- 1 E_PAYLOAD_LEN. -/
  | payloadLen
  /-- 2 E_CKSUM_LEN. -/
  | cksumLen
  /-- 3 E_ILLEGAL_OP. -/
  | illegalOp
  deriving DecidableEq, Repr

/-- The result registers of CU (R27). -/
structure Result where
  /-- `res_valid`: 1 in the cycle after a command transfer. -/
  valid : Bool
  /-- `res_op`. -/
  op : BitVec 4
  /-- `res_code`. -/
  code : ResCode
  /-- `res_cks`. -/
  cks : Byte
  /-- `res_flen`. -/
  flen : BitVec 4
  /-- `res_frame[0..12]`. -/
  frame : Bytes 13
  deriving DecidableEq, Repr

/-- The state of a PFE built with the parameters `p`: they fix the width of the spacing counter (R16). `rd`, `rxf`, `txq`, `spCnt`,
`st` and `res` are the PFE's own state elements; `env` and `drawn` are the model's fields for the environment that drives the
inputs (log 1). -/
structure Engine (p : Params) where
  /-- The reader's registers (R37). -/
  rd : Reader
  /-- The frame output register (R39). -/
  rxf : RxFrame
  /-- The transmit queue, the oldest entry first (R40); `txq_count` is its length (log 7). -/
  txq : List TxEntry
  /-- `sp_cnt`, the spacing counter, `W_SP` bits (R16, R41; log 6). -/
  spCnt : BitVec p.spWidth
  /-- `st[7:0]`, the sticky status bits (R42, R46). -/
  st : BitVec 8
  /-- The result registers (R27). -/
  res : Result
  /-- The input rows of the coming cycles, the current cycle's first (R7, R93). -/
  env : List Inputs
  /-- How many free input rows have been drawn so far. -/
  drawn : Nat
  deriving DecidableEq, Repr

/-- The machine's state: a PFE built with the parameters of this hardware. -/
structure State extends Engine Config.params
  deriving DecidableEq, Repr

/-- Why the machine could stop with a fault. There is no constructor: "The PFE has no fault state and no stuck state: in every
state and for every input it has exactly one next state" (R21). -/
inductive Fault
  deriving DecidableEq, Repr

/-- Why an instruction could have no meaning in the model. -/
inductive Refusal where
  /-- Raised by an arm of `exec` whose instruction has no meaning yet. Safe: the run stops. No arm raises it. -/
  | notModelled (mnemonic : String)
  deriving DecidableEq, Repr

/-- The reader's registers after reset (R53). -/
def Reader.reset : Reader :=
  { state := .stx, addr := 0, len := 0, cnt := 0, data := Vector.replicate 8 0, fb := false, closed := false }

/-- The frame output register after reset (R53). -/
def RxFrame.reset : RxFrame := { valid := false, addr := 0, len := 0, data := Vector.replicate 8 0 }

/-- The result registers after reset (R53). -/
def Result.reset : Result :=
  { valid := false, op := 0, code := .ok, cks := 0, flen := 0, frame := Vector.replicate 13 0 }

/-- A PFE right after a reset cycle (R53, R159). No input row is listed and no free row has been drawn: DESIGN CHOICE,
the model's own fields (log 14). -/
def Engine.reset {p : Params} : Engine p :=
  { rd := Reader.reset, rxf := RxFrame.reset, txq := [], spCnt := BitVec.zero _, st := 0, res := Result.reset, env := []
    drawn := 0 }

/-- The machine right after a reset cycle (R53, R159). -/
def State.reset : State := { toEngine := Engine.reset }

end Sys2Proof.Machine
end

