-- ==== Sys2Proof/Machine/Ops.lean ====
section
/-! DEFINITION. The shared operations of the PFE: the checksum generator and packet assembler (40_codec.md), the reader's buffer
clear and resync (41_reader.md R118, the nearest thing the PFE has to taking and leaving an exception: R149, R150), the queue
(20_memory.md R67), the writes of the three units (10_state.md R50, R52), the reset cycle and the input rows. -/

namespace Sys2Proof.Machine

/-! ### Byte sequences and the Frame Codec -/

/-- `sum(s)`, the natural-number sum of the bytes (R18). -/
def sumBytes : List Byte → Nat
  | [] => 0
  | b :: bs => b.toNat + sumBytes bs

/-- `cks8(s) = (0x100 - (sum(s) mod 256)) mod 256` (R94). -/
def cks8 (s : List Byte) : Byte := BitVec.ofNat 8 ((0x100 - sumBytes s % 256) % 256)

/-- `h = [0x0F, a, len(d)] ++ d` of R96: the bytes a frame's checksum covers (R77). -/
def frameHead (a : Byte) (d : List Byte) : List Byte := Config.stx :: a :: BitVec.ofNat 8 d.length :: d

/-- `assemble(a, d) = h ++ [cks8(h), 0x04]` (R96). -/
def assemble (a : Byte) (d : List Byte) : List Byte := frameHead a d ++ [cks8 (frameHead a d), Config.etx]

/-- The bytes of `l` at indices 0 to `n - 1` of a port or register, 0 from the end of `l` on (R58). -/
def padBytes (n : Nat) (l : List Byte) : Bytes n := Vector.ofFn fun i => l.getD i.val 0

/-- `v[0..len)`. -/
def prefixBytes {n : Nat} (v : Bytes n) (len : Nat) : List Byte := v.toList.take len

/-- `rd_data[0..rd_len)`. -/
def Reader.payload (r : Reader) : List Byte := prefixBytes r.data r.len.toNat

/-- `rxf_data_reg[0..rxf_len_reg)`. -/
def RxFrame.payload (f : RxFrame) : List Byte := prefixBytes f.data f.len.toNat

/-- The normalized frame the frame output port presents (R29). -/
def RxFrame.frame (f : RxFrame) : List Byte := assemble f.addr f.payload

/-- `h.data[0..h.len)` of a queue entry. -/
def TxEntry.payload (e : TxEntry) : List Byte := prefixBytes e.data e.len.toNat

/-- The bytes of a queue entry: `assemble(addr, data[0..len))` (R30, R40). -/
def TxEntry.frame (e : TxEntry) : List Byte := assemble e.addr e.payload

/-- The queue entry SEND pushes: `{addr, len, data[0..len) ++ zeros to 8 bytes}` (R126). -/
def TxEntry.ofPayload (a : Byte) (d : List Byte) : TxEntry :=
  { addr := a, len := BitVec.ofNat 4 d.length, data := padBytes 8 d }

/-! ### The reader's buffer -/

/-- `clear_rd()` (R118). -/
def Reader.clear (r : Reader) : Reader :=
  { r with addr := 0, len := 0, cnt := 0, data := Vector.replicate 8 0, fb := false }

/-- `resync()`, the recovery after a checksum or ETX violation (R118). -/
def Reader.resync (p : Params) (r : Reader) : Reader :=
  { r.clear with state := if p.drainOnError then .drain else .stx }

/-! ### The writes of the three units -/

/-- What CU writes in a cycle (R50): the result registers, at most one queue entry, and its masks of sticky bits (R52). -/
structure CuWrites where
  result : Result
  push : Option TxEntry
  clear : BitVec 8
  set : BitVec 8
  deriving DecidableEq, Repr

/-- CU's writes alone, at a state. Set wins over clear (R52). -/
def applyCu {p : Params} (s : Engine p) (w : CuWrites) : Engine p :=
  { s with res := w.result, txq := s.txq ++ w.push.toList, st := (s.st &&& ~~~w.clear) ||| w.set }

/-- CU's writes in a cycle without a command transfer: `res_valid <- 0`, the other result registers keep their values
(R142). -/
def noTransfer {p : Params} (s : Engine p) : CuWrites :=
  { result := { s.res with valid := false }, push := none, clear := 0, set := 0 }

/-- `txq_count == P_TXQ_DEPTH`, the condition that holds a SEND (R26). -/
def Engine.queueFull {p : Params} (s : Engine p) : Bool := s.txq.length == p.txqDepth

/-- `txq_count` (R40): the number of queue entries (log 7). -/
def Engine.txqCount {p : Params} (s : Engine p) : BitVec 4 := BitVec.ofNat 4 s.txq.length

/-- The reader event of a cycle (R91). -/
inductive RdEvent where
  | none | badStx | lenFallback | badCksum | badEtx | closed | ioErr | frame
  deriving DecidableEq, Repr

/-- What RD writes in a cycle (R50), with the event it reports (R33) and its mask of sticky bits. -/
structure RdWrites where
  rd : Reader
  rxf : RxFrame
  event : RdEvent
  set : BitVec 8
  deriving DecidableEq, Repr

/-- RD's writes alone, at a state. -/
def applyRd {p : Params} (s : Engine p) (w : RdWrites) : Engine p :=
  { s with rd := w.rd, rxf := w.rxf, st := s.st ||| w.set }

/-- What SS writes in a cycle (R50): whether it removes the queue head, the spacing counter, its drop event and mask. -/
structure SsWrites (p : Params) where
  pop : Bool
  spCnt : BitVec p.spWidth
  txFail : Bool
  set : BitVec 8
  deriving DecidableEq, Repr

/-- SS's writes alone, at a state: the removal takes the head (R67). -/
def applySs {p : Params} (s : Engine p) (w : SsWrites p) : Engine p :=
  { s with txq := if w.pop then s.txq.tail else s.txq, spCnt := w.spCnt, st := s.st ||| w.set }

/-! ### The input rows and the reset cycle -/

/-- The inputs of the current cycle: the first listed row, or the next free row where none is listed (R7; log 1). -/
def Engine.now {p : Params} (s : Engine p) : Inputs :=
  match s.env with
  | [] => Config.freeInputs s.drawn
  | row :: _ => row

/-- The clock moves on: the current cycle's row, listed or free, is used up. -/
def Engine.nextRow {p : Params} (s : Engine p) : Engine p :=
  { s with env := s.env.tail, drawn := if s.env.isEmpty then s.drawn + 1 else s.drawn }

/-- A reset cycle: "every state element takes its reset value" (R157). The rows of the coming cycles belong to the
environment and stay. -/
def Engine.resetCycle {p : Params} (s : Engine p) : Engine p :=
  { Engine.reset with env := s.nextRow.env, drawn := s.nextRow.drawn }

/-- The command presented in the current cycle, if any (R25). -/
def fetchCommand (s : State) : Option Instr :=
  if s.now.cmdValid then some (decodeCommand s.now.cmdWord) else none

/-- The receive event of the current cycle; every cycle has one (R88). -/
def fetchReceive (s : State) : Instr := decodeReceive s.now.rxWord

/-- The row of R93 that presents a port's word. -/
def portRow : PortWord → Inputs
  | .command w => Inputs.commandRow w
  | .receive w => Inputs.receiveRow w

/-- `s` with the current cycle's row replaced by the one of R93 that presents the word `w` (log 2). -/
def State.placeWord (s : State) (w : PortWord) : State :=
  { toEngine := { s.toEngine with env := portRow w :: s.env.tail } }

end Sys2Proof.Machine
end

