-- ==== Sys2Proof/Machine/Flags.lean ====
section
/-! DEFINITION. The STATUS word (10_state.md R46), its sticky bits (43_control.md R143), and the codes of events and results
(30_encoding.md R90, R91; 10_state.md R38). -/

namespace Sys2Proof.Machine

/-- Sticky bit 0, BAD_STX (R46). -/
def Sticky.badStx : BitVec 8 := 0x01

/-- Sticky bit 1, LEN_FALLBACK (R46). -/
def Sticky.lenFallback : BitVec 8 := 0x02

/-- Sticky bit 2, BAD_CKSUM (R46). -/
def Sticky.badCksum : BitVec 8 := 0x04

/-- Sticky bit 3, BAD_ETX (R46). -/
def Sticky.badEtx : BitVec 8 := 0x08

/-- Sticky bit 4, RD_CLOSED (R46). -/
def Sticky.rdClosed : BitVec 8 := 0x10

/-- Sticky bit 5, RD_IOERR (R46). -/
def Sticky.rdIoErr : BitVec 8 := 0x20

/-- Sticky bit 6, TX_FAIL (R46). -/
def Sticky.txFail : BitVec 8 := 0x40

/-- Sticky bit 7, CMD_ERR (R46). -/
def Sticky.cmdErr : BitVec 8 := 0x80

/-- The sticky bit a command result sets: CMD_ERR when `res_code` is not 0 (R142, R143). -/
def cmdErrMask (c : ResCode) : BitVec 8 := if c = .ok then 0 else Sticky.cmdErr

/-- The 2-bit value of `res_code` (R90). -/
def ResCode.code : ResCode → BitVec 2
  | .ok => 0
  | .payloadLen => 1
  | .cksumLen => 2
  | .illegalOp => 3

/-- The 3-bit value of `ev_rd` (R91). -/
def RdEvent.code : RdEvent → BitVec 3
  | .none => 0
  | .badStx => 1
  | .lenFallback => 2
  | .badCksum => 3
  | .badEtx => 4
  | .closed => 5
  | .ioErr => 6
  | .frame => 7

/-- The 3-bit value of `rd_state` (R38). -/
def RdState.code : RdState → BitVec 3
  | .stx => 0
  | .addr => 1
  | .len => 2
  | .data => 3
  | .cks => 4
  | .etx => 5
  | .drain => 6

/-- STATUS (R46), from start-of-cycle state and the input `link_up` (R31): reserved 31:20, TXQ_COUNT 19:16, reserved 15,
LINK_UP 14, SP_BUSY 13, RXF_PENDING 12, RD_CLOSED_NOW 11, RD_STATE 10:8, sticky bits 7:0. -/
def statusWord {p : Params} (linkUp : Bool) (s : Engine p) : BitVec 32 :=
  (0 : BitVec 12) ++ s.txqCount ++ (0 : BitVec 1) ++ BitVec.ofBool linkUp ++ BitVec.ofBool (s.spCnt.toNat != 0)
    ++ BitVec.ofBool s.rxf.valid ++ BitVec.ofBool s.rd.closed ++ s.rd.state.code ++ s.st

end Sys2Proof.Machine
end

