-- ==== Sys2Proof/Machine/Operands.lean ====
section
/-! DEFINITION. Operand assembly of the commands (30_encoding.md R86): lengths are unsigned bytes, with no scaling; an operand a
command does not read has no effect. -/

namespace Sys2Proof.Machine

/-- The DATA operand of BUILD and SEND: `data[0..len)` when `len <= 8`, none otherwise (R86, R98, R126). -/
def payloadOperand (len : Byte) (data : Bytes 11) : Option (List Byte) :=
  if len.toNat ≤ Config.maxData then some (prefixBytes data len.toNat) else none

/-- The operand of CKSUM: `data[0..len)` when `len <= 11`, none otherwise (R86, R99). -/
def cksumOperand (len : Byte) (data : Bytes 11) : Option (List Byte) :=
  if len.toNat ≤ Config.cksumMax then some (prefixBytes data len.toNat) else none

/-- The mask of CLRST: `data[0]` (R86, R140). -/
def maskOperand (data : Bytes 11) : BitVec 8 := data[0]

end Sys2Proof.Machine
end

