-- ==== Sys2Proof/Machine/Codec.lean ====
section
/-! DEFINITION. The results of commands (43_control.md R142) and the codec commands BUILD and CKSUM (40_codec.md R98, R99). -/

namespace Sys2Proof.Machine

/-- A result without a frame: `res_flen <- 0`, `res_frame <- all 0x00`. -/
def plainResult (op : BitVec 4) (code : ResCode) (cks : Byte) : Result :=
  { valid := true, op := op, code := code, cks := cks, flen := 0, frame := Vector.replicate 13 0 }

/-- The OK result of BUILD and SEND for the frame `f = assemble(a, d)`: `res_cks <- f[3 + len]`, `res_flen <- len + 5`,
`res_frame` the frame and zeros (R98, R126). -/
def frameResult (op : BitVec 4) (a : Byte) (d : List Byte) : Result :=
  { valid := true, op := op, code := .ok, cks := cks8 (frameHead a d), flen := BitVec.ofNat 4 (d.length + 5)
    frame := padBytes 13 (assemble a d) }

/-- CU's writes for a completed command with the result `r`: CMD_ERR is set when `res_code` is not 0 (R142). -/
def completed (r : Result) : CuWrites := { result := r, push := none, clear := 0, set := cmdErrMask r.code }

/-- BUILD (R98). -/
def buildWrites (addr len : Byte) (data : Bytes 11) : CuWrites :=
  match payloadOperand len data with
  | none => completed (plainResult 0x1 .payloadLen 0)
  | some d => completed (frameResult 0x1 addr d)

/-- CKSUM (R99). -/
def cksumWrites (len : Byte) (data : Bytes 11) : CuWrites :=
  match cksumOperand len data with
  | none => completed (plainResult 0x2 .cksumLen 0)
  | some d => completed (plainResult 0x2 .ok (cks8 d))

/-- BUILD: assemble a frame and return it to the host, without sending it (R98). -/
def execBuild (addr len : Byte) (data : Bytes 11) (s : State) : Host.Outcome State Fault Refusal :=
  .next { toEngine := applyCu s.toEngine (buildWrites addr len data) }

/-- CKSUM: compute the checksum of a byte sequence given by the host (R99). `addr` is not read. -/
def execCksum (_addr len : Byte) (data : Bytes 11) (s : State) : Host.Outcome State Fault Refusal :=
  .next { toEngine := applyCu s.toEngine (cksumWrites len data) }

end Sys2Proof.Machine
end

