-- ==== Sys2Proof/Machine/Control.lean ====
section
/-! DEFINITION. The control commands NOP and CLRST and the reserved opcodes (43_control.md R139 to R141). -/

namespace Sys2Proof.Machine

/-- NOP (R139). -/
def nopWrites : CuWrites := completed (plainResult 0x0 .ok 0)

/-- CLRST (R140): the mask is combined by R52. -/
def clrstWrites (data : Bytes 11) : CuWrites := { completed (plainResult 0x4 .ok 0) with clear := maskOperand data }

/-- A reserved opcode (R141): E_ILLEGAL_OP and CMD_ERR, no other effect. -/
def reservedWrites (op : BitVec 4) : CuWrites := completed (plainResult op .illegalOp 0)

/-- NOP: all operand fields are ignored; an earlier frame result is cleared (R139). -/
def execNop (_addr _len : Byte) (_data : Bytes 11) (s : State) : Host.Outcome State Fault Refusal :=
  .next { toEngine := applyCu s.toEngine nopWrites }

/-- CLRST: clear the sticky bits whose mask bits are 1 (R140). `addr`, `len` and `data[1..10]` are ignored. -/
def execClrst (_addr _len : Byte) (data : Bytes 11) (s : State) : Host.Outcome State Fault Refusal :=
  .next { toEngine := applyCu s.toEngine (clrstWrites data) }

/-- The reserved opcode 0x5 (R141). -/
def execRsv5 (_addr _len : Byte) (_data : Bytes 11) (s : State) : Host.Outcome State Fault Refusal :=
  .next { toEngine := applyCu s.toEngine (reservedWrites 0x5) }

/-- The reserved opcodes 0x6 and 0x7 (R141): `res_op <- op`. -/
def execRsv67 (op : BitVec 4) (_addr _len : Byte) (_data : Bytes 11) (s : State) : Host.Outcome State Fault Refusal :=
  .next { toEngine := applyCu s.toEngine (reservedWrites op) }

/-- The reserved opcodes 0x8 to 0xF (R141): `res_op <- op`. -/
def execRsv8f (op : BitVec 4) (_addr _len : Byte) (_data : Bytes 11) (s : State) : Host.Outcome State Fault Refusal :=
  .next { toEngine := applyCu s.toEngine (reservedWrites op) }

end Sys2Proof.Machine
end

