-- ==== Sys2Proof/Machine/Reader.lean ====
section
/-! DEFINITION. The Frame Reader (41_reader.md): the action of each rule R104 to R117, the output handshake R119, and the four
receive-event classes of 30_encoding.md R88. -/

namespace Sys2Proof.Machine

/-- No reader action: nothing is written and `ev_rd` is NONE (R106, R120, and R103's last branch). -/
def rdNothing {p : Params} (s : Engine p) : RdWrites := { rd := s.rd, rxf := s.rxf, event := .none, set := 0 }

/-- Link down (R104): the buffer and the frame the consumer has not taken are dropped, `rd_closed` is cleared. -/
def rdLinkDown {p : Params} (s : Engine p) : RdWrites :=
  { rd := { s.rd.clear with state := .stx, closed := false }
    rxf := { s.rxf with valid := false }
    event := .none
    set := 0 }

/-- End of stream or read failure (R105). `rx_err` wins over `rx_eos`; both sticky bits are set when both are 1. -/
def rdStreamEnd {p : Params} (eos err : Bool) (s : Engine p) : RdWrites :=
  { rd := { s.rd.clear with state := .stx, closed := true }
    rxf := s.rxf
    event := if err then .ioErr else .closed
    set := (if err then Sticky.rdIoErr else 0) ||| (if eos then Sticky.rdClosed else 0) }

/-- The drain ends in the first cycle with no byte offered (R107). -/
def rdDrainEnd {p : Params} (s : Engine p) : RdWrites := { rdNothing s with rd := { s.rd with state := .stx } }

/-- `exp_cks`, the expected checksum of the frame in the buffer (R113). -/
def expectedCksum (p : Params) (r : Reader) : Byte :=
  if r.fb && p.fallbackCksum == .raw then cks8 [Config.stx, r.addr, r.data[0]]
  else cks8 (Config.stx :: r.addr :: r.len.zeroExtend 8 :: r.payload)

/-- A byte in `S_STX` (R108). -/
def byteInStx {p : Params} (b : Byte) (s : Engine p) : RdWrites :=
  if b = Config.stx then { rdNothing s with rd := { s.rd with state := .addr } }
  else { rdNothing s with event := .badStx, set := Sticky.badStx }

/-- A byte in `S_ADDR` (R109). -/
def byteInAddr {p : Params} (b : Byte) (s : Engine p) : RdWrites :=
  { rdNothing s with rd := { s.rd with addr := b, state := .len } }

/-- A byte in `S_LEN`: the declared length (R110), or the fallback's single DATA byte (R111). -/
def byteInLen {p : Params} (b : Byte) (s : Engine p) : RdWrites :=
  if b.toNat ≤ Config.maxData then
    { rdNothing s with
      rd := { s.rd with len := b.setWidth 4, cnt := 0, fb := false, state := if b = 0 then .cks else .data } }
  else
    { rdNothing s with
      rd := { s.rd with data := s.rd.data.set 0 b, len := 1, cnt := 1, fb := true, state := .cks }
      event := .lenFallback
      set := Sticky.lenFallback }

/-- A byte in `S_DATA` (R112). `rd_cnt < 8` in every reachable state (R44); elsewhere the write is discarded (log 9). -/
def byteInData {p : Params} (b : Byte) (s : Engine p) : RdWrites :=
  { rdNothing s with
    rd := { s.rd with
      data := s.rd.data.setIfInBounds s.rd.cnt.toNat b
      cnt := s.rd.cnt + 1
      state := if s.rd.cnt.toNat + 1 = s.rd.len.toNat then .cks else .data } }

/-- A byte in `S_CKS`: match (R114) or mismatch (R115). -/
def byteInCks {p : Params} (b : Byte) (s : Engine p) : RdWrites :=
  if b = expectedCksum p s.rd then { rdNothing s with rd := { s.rd with state := .etx } }
  else { rdNothing s with rd := s.rd.resync p, event := .badCksum, set := Sticky.badCksum }

/-- A byte in `S_ETX`: emit (R116) or violation (R117). -/
def byteInEtx {p : Params} (b : Byte) (s : Engine p) : RdWrites :=
  if b = Config.etx then
    { rd := { s.rd.clear with state := .stx }
      rxf := { valid := true, addr := s.rd.addr, len := s.rd.len, data := s.rd.data }
      event := .frame
      set := 0 }
  else { rdNothing s with rd := s.rd.resync p, event := .badEtx, set := Sticky.badEtx }

/-- The byte rule of `rd_state` (R103, R89). In `S_DRAIN` the byte is discarded (R107). -/
def byteRule {p : Params} (b : Byte) (s : Engine p) : RdWrites :=
  match s.rd.state with
  | .stx => byteInStx b s
  | .addr => byteInAddr b s
  | .len => byteInLen b s
  | .data => byteInData b s
  | .cks => byteInCks b s
  | .etx => byteInEtx b s
  | .drain => rdNothing s

/-- The output handshake of every non-reset cycle (R119), on top of the reader's other writes. -/
def rdHandshake {p : Params} (i : Inputs) (s : Engine p) (w : RdWrites) : RdWrites :=
  if i.linkUp && s.rxf.valid && i.rxfReady then { w with rxf := { w.rxf with valid := false } } else w

/-- RD's writes in a cycle with an RX_ERR or RX_EOS event (R104, R105). -/
def rxEndWrites {p : Params} (i : Inputs) (eos err : Bool) (s : Engine p) : RdWrites :=
  rdHandshake i s (if i.linkUp then rdStreamEnd eos err s else rdLinkDown s)

/-- RD's writes in a cycle with an RX_BYTE event (R103): the byte transfers only while no received frame waits (R28). -/
def rxByteWrites {p : Params} (i : Inputs) (b : Byte) (s : Engine p) : RdWrites :=
  rdHandshake i s
    (if !i.linkUp then rdLinkDown s
     else if s.rd.closed then rdNothing s
     else if s.rxf.valid then rdNothing s
     else byteRule b s)

/-- RD's writes in a cycle with an RX_IDLE event (R103, R107). -/
def rxIdleWrites {p : Params} (i : Inputs) (s : Engine p) : RdWrites :=
  rdHandshake i s
    (if !i.linkUp then rdLinkDown s
     else if s.rd.closed then rdNothing s
     else if s.rd.state = .drain then rdDrainEnd s
     else rdNothing s)

/-- RX_ERR: the receive stream is broken (R105); a byte of the same cycle is discarded. -/
def execRxErr (_byte : Byte) (_valid eos : Bool) (s : State) : Host.Outcome State Fault Refusal :=
  .next { toEngine := applyRd s.toEngine (rxEndWrites s.now eos true s.toEngine) }

/-- RX_EOS: the receive stream is closed (R105); a byte of the same cycle is discarded. -/
def execRxEos (_byte : Byte) (_valid : Bool) (s : State) : Host.Outcome State Fault Refusal :=
  .next { toEngine := applyRd s.toEngine (rxEndWrites s.now true false s.toEngine) }

/-- RX_BYTE: a byte is offered (R103, R106 to R117). -/
def execRxByte (byte : Byte) (s : State) : Host.Outcome State Fault Refusal :=
  .next { toEngine := applyRd s.toEngine (rxByteWrites s.now byte s.toEngine) }

/-- RX_IDLE: no byte, no condition (R103, R107). -/
def execRxIdle (_byte : Byte) (s : State) : Host.Outcome State Fault Refusal :=
  .next { toEngine := applyRd s.toEngine (rxIdleWrites s.now s.toEngine) }

end Sys2Proof.Machine
end

