-- ==== Sys2Proof/Machine/Scheduler.lean ====
section
/-! DEFINITION. The Send Scheduler (42_scheduler.md): the SEND command and the scheduler's action of each cycle. -/

namespace Sys2Proof.Machine

/-- SEND in a cycle with `cmd_xfer` (R126). -/
def sendWrites (addr len : Byte) (data : Bytes 11) : CuWrites :=
  match payloadOperand len data with
  | none => completed (plainResult 0x3 .payloadLen 0)
  | some d => { completed (frameResult 0x3 addr d) with push := some (TxEntry.ofPayload addr d) }

/-- SEND: assemble a frame and queue it for writing (R126). While the queue is full it is held: `cmd_ready` is 0, no command
transfers (R26, R163). -/
def execSend (addr len : Byte) (data : Bytes 11) (s : State) : Host.Outcome State Fault Refusal :=
  .next { toEngine := applyCu s.toEngine (if s.queueFull then noTransfer s.toEngine else sendWrites addr len data) }

/-- What SS does in a cycle (R127). -/
inductive SsAction where
  /-- R128. -/
  | countdown
  /-- R132. -/
  | idle
  /-- R131. -/
  | drop
  /-- R129. -/
  | writeStart
  /-- R130. -/
  | hold
  deriving DecidableEq, Repr

/-- The action of R127: the first whose condition holds, read from start-of-cycle state and the cycle's inputs. -/
def ssAction {p : Params} (i : Inputs) (s : Engine p) : SsAction :=
  if 0 < s.spCnt.toNat then .countdown
  else if s.txq.isEmpty then .idle
  else if !i.linkUp then .drop
  else if i.txReady then .writeStart
  else .hold

/-- The load value of the spacing counter, `S - 1` in `W_SP` bits (R41). It fits: `S <= 2 ^ W_SP` (R11, R16). -/
def spLoad (p : Params) : BitVec p.spWidth := BitVec.ofNat p.spWidth (p.spacing - 1)

/-- SS's writes for each action (R128 to R132). A drop counts as a write start (R131). -/
def ssWrites {p : Params} (a : SsAction) (s : Engine p) : SsWrites p :=
  match a with
  | .countdown => { pop := false, spCnt := s.spCnt - 1, txFail := false, set := 0 }
  | .idle => { pop := false, spCnt := s.spCnt, txFail := false, set := 0 }
  | .drop => { pop := true, spCnt := spLoad p, txFail := true, set := Sticky.txFail }
  | .writeStart => { pop := true, spCnt := spLoad p, txFail := false, set := 0 }
  | .hold => { pop := false, spCnt := s.spCnt, txFail := false, set := 0 }

/-- The scheduler's step of a non-reset cycle (R127). -/
def ssStep {p : Params} (i : Inputs) (s : Engine p) : SsWrites p := ssWrites (ssAction i s) s

end Sys2Proof.Machine
end

