-- ==== Sys2Proof/Machine/Dispatch.lean ====
section
/-! DEFINITION. The meaning of each instruction: the action of its unit, CU for a command and RD for a receive event, in a
non-reset cycle (log 3). -/

namespace Sys2Proof.Machine

/-- One arm per row of spec/opcode_table.json. -/
def exec (i : Instr) (s : State) : Host.Outcome State Fault Refusal :=
  match i with
  | .nop a l d => Sys2Proof.Machine.execNop a l d s
  | .build a l d => Sys2Proof.Machine.execBuild a l d s
  | .cksum a l d => Sys2Proof.Machine.execCksum a l d s
  | .send a l d => Sys2Proof.Machine.execSend a l d s
  | .clrst a l d => Sys2Proof.Machine.execClrst a l d s
  | .rsv5 a l d => Sys2Proof.Machine.execRsv5 a l d s
  | .rsv67 op a l d => Sys2Proof.Machine.execRsv67 op a l d s
  | .rsv8f op a l d => Sys2Proof.Machine.execRsv8f op a l d s
  | .rxErr b v e => Sys2Proof.Machine.execRxErr b v e s
  | .rxEos b v => Sys2Proof.Machine.execRxEos b v s
  | .rxByte b => Sys2Proof.Machine.execRxByte b s
  | .rxIdle b => Sys2Proof.Machine.execRxIdle b s

end Sys2Proof.Machine
end

