-- ==== Sys2Proof/Machine/Clock.lean ====
section
/-! DEFINITION. The step of one clock cycle over decoded instructions (10_state.md R48, R52; log 3). -/

namespace Sys2Proof.Machine

/-- Run `f` on the next state of `o`; a stop stays a stop. -/
def andThen (o : Host.Outcome State Fault Refusal) (f : State → Host.Outcome State Fault Refusal) :
    Host.Outcome State Fault Refusal :=
  match o with
  | .next s => f s
  | .fault r => .fault r
  | .refused r => .refused r

/-- CU's part: the command presented in this cycle, or none (R142). -/
def runCommand (s : State) : Host.Outcome State Fault Refusal :=
  match fetchCommand s with
  | some c => exec c s
  | none => .next { toEngine := applyCu s.toEngine (noTransfer s.toEngine) }

/-- RD's part: the receive event of this cycle (R88). -/
def runReceive (s : State) : Host.Outcome State Fault Refusal := exec (fetchReceive s) s

/-- SS's part and the clock edge: the scheduler's action is chosen from the start-of-cycle state `start` (R49, R127); its
removal takes the start-of-cycle head, in front of an entry CU has appended (R52). -/
def endCycle (start s : State) : State :=
  { toEngine := (applySs s.toEngine (ssStep start.now start.toEngine)).nextRow }

/-- One clock cycle: a reset cycle (R157), or CU's command, RD's receive event and SS's action. -/
def runCycle (s : State) : Host.Outcome State Fault Refusal :=
  if s.now.rst then .next { toEngine := s.resetCycle }
  else andThen (runCommand s) fun s₁ => andThen (runReceive s₁) fun s₂ => .next (endCycle s s₂)

end Sys2Proof.Machine
end

