-- ==== Sys2Proof/Machine/Cycle.lean ====
section
/-! DEFINITION. The clock cycle as the rules write it (10_state.md R48 to R52, 41_reader.md R103, 42_scheduler.md R127): three
units that read start-of-cycle state and the input pins only, and the combination of their writes, for any parameters. The step
of `Machine/Step.lean` runs decoded instructions instead; an obligation says the two agree. -/

namespace Sys2Proof.Machine

/-- `cmd_ready` (R26). -/
def cmdReady {p : Params} (i : Inputs) (s : Engine p) : Bool := !i.rst && !(i.cmdOp == 0x3 && s.queueFull)

/-- `cmd_xfer` (R24). -/
def cmdXfer {p : Params} (i : Inputs) (s : Engine p) : Bool := i.cmdValid && cmdReady i s

/-- `rx_ready` (R28). -/
def rxReady {p : Params} (i : Inputs) (s : Engine p) : Bool := !i.rst && !s.rxf.valid

/-- `rx_xfer` (R24). -/
def rxXfer {p : Params} (i : Inputs) (s : Engine p) : Bool := i.rxValid && rxReady i s

/-- CU's part of a cycle, by the opcode map of R85: the command of the cycle if `cmd_xfer` (R48), else R142. -/
def cuStep {p : Params} (i : Inputs) (s : Engine p) : CuWrites :=
  if cmdXfer i s then
    if i.cmdOp = 0x0 then nopWrites
    else if i.cmdOp = 0x1 then buildWrites i.cmdAddr i.cmdLen i.cmdData
    else if i.cmdOp = 0x2 then cksumWrites i.cmdLen i.cmdData
    else if i.cmdOp = 0x3 then sendWrites i.cmdAddr i.cmdLen i.cmdData
    else if i.cmdOp = 0x4 then clrstWrites i.cmdData
    else reservedWrites i.cmdOp
  else noTransfer s

/-- RD's part of a cycle: the first branch of R103 whose condition holds, and the handshake of R119. -/
def rdStep {p : Params} (i : Inputs) (s : Engine p) : RdWrites :=
  rdHandshake i s
    (if i.linkUp = false then rdLinkDown s
     else if i.rxErr ∨ i.rxEos then rdStreamEnd i.rxEos i.rxErr s
     else if s.rd.closed then rdNothing s
     else if s.rd.state = .drain then (if i.rxValid then rdNothing s else rdDrainEnd s)
     else if rxXfer i s then byteRule i.rxByte s
     else rdNothing s)

/-- The combination of the units' writes at the end of a non-reset cycle (R52). -/
def combine {p : Params} (s : Engine p) (cu : CuWrites) (rd : RdWrites) (ss : SsWrites p) : Engine p :=
  { s with
    rd := rd.rd
    rxf := rd.rxf
    txq := (if ss.pop then s.txq.tail else s.txq) ++ cu.push.toList
    spCnt := ss.spCnt
    st := (s.st &&& ~~~cu.clear) ||| (rd.set ||| ss.set ||| cu.set)
    res := cu.result }

/-- One clock cycle with parameters `p` and inputs `i`: a reset cycle does only R157, any other runs the three units
concurrently and combines their writes (R48). -/
def concurrentCycle {p : Params} (i : Inputs) (s : Engine p) : Engine p :=
  if i.rst then s.resetCycle
  else (combine s (cuStep i s) (rdStep i s) (ssStep i s)).nextRow

end Sys2Proof.Machine
end

