-- ==== Sys2Proof/Machine/Outputs.lean ====
section
/-! DEFINITION. The output side of the PFE's ports: "every output is a function of the state at the start of the cycle and the
inputs of the cycle" (00_scope.md R6; 10_state.md R26 to R34). -/

namespace Sys2Proof.Machine

/-- The value of every output port in one clock cycle (10_state.md section 1). -/
structure Outputs where
  cmdReady : Bool
  resValid : Bool
  resOp : BitVec 4
  resCode : BitVec 2
  resCks : Byte
  resFlen : BitVec 4
  resFrame : Bytes 13
  rxReady : Bool
  rxfValid : Bool
  rxfAddr : Byte
  rxfLen : BitVec 4
  rxfData : Bytes 8
  rxfFlen : BitVec 4
  rxfFrame : Bytes 13
  txValid : Bool
  txFlen : BitVec 4
  txFrame : Bytes 13
  evRd : BitVec 3
  evTxFail : Bool
  status : BitVec 32
  deriving DecidableEq, Repr

/-- `rxf_valid` (R29). -/
def rxfValid {p : Params} (i : Inputs) (s : Engine p) : Bool := !i.rst && i.linkUp && s.rxf.valid

/-- `tx_valid` (R30). -/
def txValid {p : Params} (i : Inputs) (s : Engine p) : Bool := !i.rst && i.linkUp && !s.txq.isEmpty && s.spCnt.toNat == 0

/-- `tx_flen` (R30). -/
def txFlen {p : Params} (s : Engine p) : BitVec 4 :=
  match s.txq with
  | [] => 0
  | h :: _ => h.len + 5

/-- `tx_frame[0..12]` (R30). -/
def txFrame {p : Params} (s : Engine p) : Bytes 13 :=
  match s.txq with
  | [] => Vector.replicate 13 0
  | h :: _ => padBytes 13 h.frame

/-- `ev_rd` (R33, R34). -/
def evRd {p : Params} (i : Inputs) (s : Engine p) : RdEvent := if i.rst then .none else (rdStep i s).event

/-- `ev_tx_fail` (R33, R34). -/
def evTxFail {p : Params} (i : Inputs) (s : Engine p) : Bool := !i.rst && (ssStep i s).txFail

/-- The outputs of a cycle with parameters `p` and inputs `i`. -/
def outputsWith {p : Params} (i : Inputs) (s : Engine p) : Outputs :=
  { cmdReady := cmdReady i s
    resValid := s.res.valid
    resOp := s.res.op
    resCode := s.res.code.code
    resCks := s.res.cks
    resFlen := s.res.flen
    resFrame := s.res.frame
    rxReady := rxReady i s
    rxfValid := rxfValid i s
    rxfAddr := s.rxf.addr
    rxfLen := s.rxf.len
    rxfData := s.rxf.data
    rxfFlen := s.rxf.len + 5
    rxfFrame := padBytes 13 s.rxf.frame
    txValid := txValid i s
    txFlen := txFlen s
    txFrame := txFrame s
    evRd := (evRd i s).code
    evTxFail := evTxFail i s
    status := statusWord i.linkUp s }

/-- The outputs of the current cycle of this hardware. -/
def State.outputs (s : State) : Outputs := outputsWith s.now s.toEngine

end Sys2Proof.Machine
end

