-- ==== Sys2Proof/Safety.lean ====
section
/-! DEFINITION. What a safe run of the PFE is, in the terms the statements use: the invariants of R44, R39 and R40, well-formed
frames (R83), write starts (R133), and runs of many cycles for any parameters. -/

namespace Sys2Proof.Machine

/-- The invariants of R44 as written, one field per clause, in the rule's order (`rd_state != 7` holds by the type, R45). -/
structure Invariant {p : Params} (s : Engine p) : Prop where
  rdLen_le : s.rd.len.toNat ≤ 8
  rdCnt_le : s.rd.cnt.toNat ≤ s.rd.len.toNat
  inData : s.rd.state = .data → 1 ≤ s.rd.len.toNat ∧ s.rd.cnt.toNat < s.rd.len.toNat ∧ s.rd.fb = false
  inCks : s.rd.state = .cks ∨ s.rd.state = .etx → s.rd.cnt = s.rd.len
  inFallback : s.rd.fb = true → s.rd.len.toNat = 1 ∧ 8 < s.rd.data[0].toNat
  cleared : s.rd.state = .stx ∨ s.rd.state = .addr ∨ s.rd.state = .drain →
    s.rd.len = 0 ∧ s.rd.cnt = 0 ∧ s.rd.fb = false ∧ ∀ (k : Nat) (h : k < 8), s.rd.data[k] = 0
  addrCleared : s.rd.state = .stx → s.rd.addr = 0
  drainFree : s.rd.state = .drain → s.rxf.valid = false
  closedStx : s.rd.closed = true → s.rd.state = .stx
  rxfLen_le : s.rxf.len.toNat ≤ 8
  queue_le : s.txq.length ≤ p.txqDepth
  spCnt_le : s.spCnt.toNat ≤ p.spacing - 1

/-- The bytes at index `n` and above are 0. -/
def zeroFrom {m : Nat} (n : Nat) (v : Bytes m) : Prop := ∀ (k : Nat) (h : k < m), n ≤ k → v[k] = 0

/-- What is 0 beside the clauses of R44: a held frame's DATA register from its length on (R39, R40, where a queue entry also has at
most 8 DATA bytes), the reader's buffer from `rd_cnt` on, and what `clear_rd()` (R118) left 0 while the drain runs and while
LENGTH is awaited. R44 says of `S_DRAIN` nothing about `rd_addr`, which its own clause about `S_STX` needs when the drain ends, so
the step keeps R44's clauses only together with `drainAddr` (log 18). -/
structure ZeroParts {p : Params} (s : Engine p) : Prop where
  rxf : zeroFrom s.rxf.len.toNat s.rxf.data
  txq : ∀ e ∈ s.txq, e.len.toNat ≤ 8 ∧ zeroFrom e.len.toNat e.data
  rd : zeroFrom s.rd.cnt.toNat s.rd.data
  inLen : s.rd.state = .len → s.rd.cnt = 0
  drainAddr : s.rd.state = .drain → s.rd.addr = 0

/-- A well-formed frame (R83): at least 5 bytes, STX, a LENGTH of at most 8 that fits the length, the checksum of all bytes
before it, ETX. -/
def wellFormedFrame (f : List Byte) : Prop :=
  5 ≤ f.length ∧ f.getD 0 0 = 0x0F ∧ (f.getD 2 0).toNat ≤ 8 ∧ f.length = (f.getD 2 0).toNat + 5
    ∧ f.getD (3 + (f.getD 2 0).toNat) 0 = cks8 (f.take (3 + (f.getD 2 0).toNat))
    ∧ f.getD (4 + (f.getD 2 0).toNat) 0 = 0x04

/-- A write start: a cycle in which R129 or R131 applies (R133). -/
def writeStart {p : Params} (s : Engine p) : Bool :=
  !s.now.rst && s.spCnt.toNat == 0 && !s.txq.isEmpty && (!s.now.linkUp || s.now.txReady)

/-- A hold cycle of the transmit port (R130). -/
def holdCycle {p : Params} (s : Engine p) : Bool :=
  !s.now.rst && s.spCnt.toNat == 0 && !s.txq.isEmpty && s.now.linkUp && !s.now.txReady

/-- The entry a SEND of this cycle appends (R126): none without a transferring SEND of at most 8 DATA bytes. -/
def acceptedEntry {p : Params} (s : Engine p) : List TxEntry :=
  if s.now.rst = false ∧ s.now.cmdValid = true ∧ s.now.cmdOp = 0x3 ∧ s.now.cmdLen.toNat ≤ 8 ∧ s.txq.length ≠ p.txqDepth then
    [{ addr := s.now.cmdAddr
       len := s.now.cmdLen.setWidth 4
       data := Vector.ofFn fun k => if k.val < s.now.cmdLen.toNat then s.now.cmdData[k.val] else 0 }]
  else []

/-- The entry that leaves the queue in this cycle, written or dropped (R129, R131). -/
def departedEntry {p : Params} (s : Engine p) : List TxEntry := if writeStart s then s.txq.take 1 else []

/-- One clock cycle of a PFE built with `p`, its inputs taken from the state's input rows. -/
def advance {p : Params} (s : Engine p) : Engine p := concurrentCycle s.now s

/-- The state after `n` clock cycles. -/
def after {p : Params} : Nat → Engine p → Engine p
  | 0, s => s
  | n + 1, s => after n (advance s)

/-- None of the first `n` cycles is a reset cycle. -/
def noReset {p : Params} : Nat → Engine p → Bool
  | 0, _ => true
  | n + 1, s => !s.now.rst && noReset n (advance s)

/-- In how many of the first `n` cycles `f` holds of the start-of-cycle state. -/
def countCycles {p : Params} (f : Engine p → Bool) : Nat → Engine p → Nat
  | 0, _ => 0
  | n + 1, s => (if f s then 1 else 0) + countCycles f n (advance s)

/-- The entries the first `n` cycles append to the queue, in order. -/
def accepted {p : Params} : Nat → Engine p → List TxEntry
  | 0, _ => []
  | n + 1, s => acceptedEntry s ++ accepted n (advance s)

/-- The entries that leave the queue in the first `n` cycles, in order. -/
def departed {p : Params} : Nat → Engine p → List TxEntry
  | 0, _ => []
  | n + 1, s => departedEntry s ++ departed n (advance s)

/-- The codes on `ev_rd` in the first `n` cycles (R91). -/
def events {p : Params} : Nat → Engine p → List (BitVec 3)
  | 0, _ => []
  | n + 1, s => (outputsWith s.now s).evRd :: events n (advance s)

/-- This cycle offers the byte `b` and no other condition on the receive port, with the link up and no reset. -/
def offers {p : Params} (s : Engine p) (b : Byte) : Bool :=
  !s.now.rst && s.now.linkUp && s.now.rxValid && !s.now.rxEos && !s.now.rxErr && s.now.rxByte == b

/-- This cycle's receive event is RX_IDLE, with the link up and no reset. -/
def idles {p : Params} (s : Engine p) : Bool :=
  !s.now.rst && s.now.linkUp && !s.now.rxValid && !s.now.rxEos && !s.now.rxErr

/-- The next cycles follow the script, one entry per cycle: `some b` offers the byte `b`, `none` is idle. -/
def carries {p : Params} : List (Option Byte) → Engine p → Bool
  | [], _ => true
  | some b :: script, s => offers s b && carries script (advance s)
  | none :: script, s => idles s && carries script (advance s)

/-- The bytes a script offers, in order; idle cycles before and between them, and the last cycle offers a byte. -/
def scriptOf (script : List (Option Byte)) (bytes : List Byte) : Prop :=
  script.filterMap id = bytes ∧ script.getLast? ≠ some none

/-- A byte transfers on the receive port in this cycle (R24, R28). -/
def byteTransfers {p : Params} (s : Engine p) : Bool := rxXfer s.now s

end Sys2Proof.Machine
end

