-- ==== Sys2Proof/Certificates/Slice0/Obligations.lean ====
section
/-! DEFINITION. The statements about the Pbus Frame Engine, from the numbered rules of spec/. `exec i s` is the action of the unit
that instruction `i` belongs to in a non-reset cycle, `step s` one clock cycle (log 3). -/

open Sys2Proof Sys2Proof.Machine

/-! ### Encodings -/

/-- Words written out from R84, R85 and R88 decode to the instructions they stand for. -/
def Obligations.WrittenOutWordsDecode : Prop :=
  decodeWord (.command 0x000000000000000000000101051) = .build 0x05 0x01 #v[1, 0, 0, 0, 0, 0, 0, 0, 0, 0, 0]
    ∧ decodeWord (.command 0x000000000000000000000500004) = .clrst 0x00 0x00 #v[5, 0, 0, 0, 0, 0, 0, 0, 0, 0, 0]
    ∧ decodeWord (.command 0x00000000000000000000000000A) = .rsv8f 0xA 0x00 0x00 #v[0, 0, 0, 0, 0, 0, 0, 0, 0, 0, 0]
    ∧ decodeWord (.receive 0b10111101010) = .rxErr 0xEA true false
    ∧ decodeWord (.receive 0b00100001111) = .rxByte 0x0F

/-- Decoding the word of a well-formed instruction gives the instruction back: every field of R84 and R88, at every value. -/
def Obligations.DecodeOfEncodeIsTheInstruction : Prop :=
  ∀ i : Instr, i.wellFormed = true → decodeWord (encode i) = i

/-- Every word of either port decodes to a well-formed instruction whose word it is: no bit of a word is lost. -/
def Obligations.EncodeOfDecodeIsTheWord : Prop :=
  ∀ w : PortWord, (decodeWord w).wellFormed = true ∧ encode (decodeWord w) = w

/-- The byte decoder reads back the bytes of every well-formed instruction, and accepts no other bytes. The byte form is the
model's (DESIGN CHOICE, log 10). -/
def Obligations.ByteDecoderAcceptsExactlyTheEncodings : Prop :=
  ∀ (port : Port) (bytes : List Byte) (i : Instr),
    decode port bytes = .ok i ↔ i.wellFormed = true ∧ (encode i).port = port ∧ (encode i).toBytes = bytes

/-- The opcode map of R85 over the layout of R84, one clause per row. -/
def Obligations.OpcodeMapSelectsTheRow : Prop :=
  ∀ w : CmdWord,
    let op := w.extractLsb' 0 4
    let a := w.extractLsb' 4 8
    let l := w.extractLsb' 12 8
    let d : Bytes 11 := Vector.ofFn fun k => w.extractLsb' (20 + 8 * k.val) 8
    (op = 0x0 → decodeCommand w = .nop a l d)
      ∧ (op = 0x1 → decodeCommand w = .build a l d)
      ∧ (op = 0x2 → decodeCommand w = .cksum a l d)
      ∧ (op = 0x3 → decodeCommand w = .send a l d)
      ∧ (op = 0x4 → decodeCommand w = .clrst a l d)
      ∧ (op = 0x5 → decodeCommand w = .rsv5 a l d)
      ∧ (op = 0x6 ∨ op = 0x7 → decodeCommand w = .rsv67 op a l d)
      ∧ (8 ≤ op.toNat → decodeCommand w = .rsv8f op a l d)

/-- The four classes of a receive-event word, in the priority of R88. -/
def Obligations.ReceiveEventClassPriority : Prop :=
  ∀ w : RxWord,
    let b := w.extractLsb' 0 8
    (w.getLsbD 10 = true → decodeReceive w = .rxErr b (w.getLsbD 8) (w.getLsbD 9))
      ∧ (w.getLsbD 10 = false → w.getLsbD 9 = true → decodeReceive w = .rxEos b (w.getLsbD 8))
      ∧ (w.getLsbD 10 = false → w.getLsbD 9 = false → w.getLsbD 8 = true → decodeReceive w = .rxByte b)
      ∧ (w.getLsbD 10 = false → w.getLsbD 9 = false → w.getLsbD 8 = false → decodeReceive w = .rxIdle b)

/-! ### The step -/

/-- A non-reset cycle runs the command presented, if any, then the cycle's receive event, then the scheduler's action chosen
from the start-of-cycle state (log 3). -/
def Obligations.StepRunsTheDecodedInstructions : Prop :=
  ∀ s : State, s.now.rst = false →
    (s.now.cmdValid = true →
      step s = andThen (exec (decodeCommand s.now.cmdWord) s) fun s₁ =>
        andThen (exec (decodeReceive s.now.rxWord) s₁) fun s₂ => .next (endCycle s s₂))
    ∧ (s.now.cmdValid = false →
      step s = andThen (exec (decodeReceive s.now.rxWord) { s with res := { s.res with valid := false } }) fun s₂ =>
        .next (endCycle s s₂))

/-- A word placed on its port by `placeWord` is the one the next step runs: a command beside an idle receive event, a receive
event beside no command (log 2). -/
def Obligations.PlacedInstructionRuns : Prop :=
  ∀ (i : Instr) (s : State), i.wellFormed = true →
    let t := s.placeWord (encode i)
    (i.isCommand = true →
      step t = andThen (exec i t) fun t₁ => andThen (exec (.rxIdle 0) t₁) fun t₂ => .next (endCycle t t₂))
    ∧ (i.isCommand = false →
      step t = andThen (exec i { t with res := { t.res with valid := false } }) fun t₂ => .next (endCycle t t₂))

/-- R48: running the decoded instructions one after the other is the concurrent cycle of the three units, each of which reads
start-of-cycle state and the input pins only. -/
def Obligations.StepIsTheConcurrentCycle : Prop :=
  ∀ s : State, step s = .next { toEngine := concurrentCycle s.now s.toEngine }

/-- R21: from every state the machine runs for any number of cycles, without a fault or a refusal; the run is the concurrent
one. -/
def Obligations.RunsNeverStop : Prop :=
  ∀ (n : Nat) (s : State), Host.Core.run core n s = .next ({ toEngine := after n s.toEngine } : State)

/-- The invariants of R44 with the zero parts of R39, R40 and R118 (log 18): from every state that satisfies them the step gives a
next state that satisfies them, and so does the cycle of every legal parameter set for every input. -/
def Obligations.StepKeepsTheInvariants : Prop :=
  (∀ s : State, Invariant s.toEngine → ZeroParts s.toEngine →
    ∃ t, step s = .next t ∧ Invariant t.toEngine ∧ ZeroParts t.toEngine)
  ∧ ∀ (p : Params) (i : Inputs) (s : Engine p), p.legal → Invariant s → ZeroParts s →
    Invariant (concurrentCycle i s) ∧ ZeroParts (concurrentCycle i s)

/-- The reset state satisfies the invariants of R44 and has its zero parts. -/
def Obligations.ResetStateIsInvariant : Prop := Invariant State.reset.toEngine ∧ ZeroParts State.reset.toEngine

/-- R157 with the values of R53, and R34: a reset cycle loads every reset value, whatever the state and the other inputs; every
ready and valid output is 0 and no event is raised. -/
def Obligations.ResetCycleLoadsEveryResetValue : Prop :=
  ∀ s : State, s.now.rst = true →
    step s = .next
      { rd := { state := .stx, addr := 0, len := 0, cnt := 0, data := #v[0, 0, 0, 0, 0, 0, 0, 0], fb := false, closed := false }
        rxf := { valid := false, addr := 0, len := 0, data := #v[0, 0, 0, 0, 0, 0, 0, 0] }
        txq := []
        spCnt := 0
        st := 0
        res := { valid := false, op := 0, code := .ok, cks := 0, flen := 0
                 frame := #v[0, 0, 0, 0, 0, 0, 0, 0, 0, 0, 0, 0, 0] }
        env := s.env.tail
        drawn := if s.env = [] then s.drawn + 1 else s.drawn }
    ∧ s.outputs.cmdReady = false ∧ s.outputs.rxReady = false ∧ s.outputs.rxfValid = false ∧ s.outputs.txValid = false
    ∧ s.outputs.evRd = 0 ∧ s.outputs.evTxFail = false

/-! ### The Frame Codec -/

/-- R94: the two forms of the checksum agree. -/
def Obligations.ChecksumFormsAgree : Prop :=
  ∀ s : List Byte,
    (cks8 s).toNat = (0x100 - sumBytes s % 256) % 256 ∧ (cks8 s).toNat = (0x100 - (sumBytes s &&& 0xFF)) &&& 0xFF

/-- R95: the laws of `cks8`. -/
def Obligations.ChecksumLaws : Prop :=
  (∀ s : List Byte, (cks8 s).toNat ≤ 255 ∧ (cks8 s = 0 ↔ sumBytes s % 256 = 0) ∧ (sumBytes s + (cks8 s).toNat) % 256 = 0)
    ∧ cks8 [] = 0
    ∧ (∀ (a : Byte) (d : List Byte), d.length ≤ 8 → sumBytes ((assemble a d).take (d.length + 4)) % 256 = 0)
    ∧ (∀ s t : List Byte, s.Perm t → cks8 s = cks8 t)
    ∧ (∀ (u v : List Byte) (b : Byte), cks8 (u ++ (b + 1) :: v) = cks8 (u ++ b :: v) - 1)

/-- R97: the laws of `assemble`. -/
def Obligations.AssembleLaws : Prop :=
  (∀ (a : Byte) (d : List Byte), d.length ≤ 8 →
    let f := assemble a d
    let n := d.length
    f.length = n + 5 ∧ f.getD 0 0 = 0x0F ∧ f.getD 1 0 = a ∧ (f.getD 2 0).toNat = n ∧ (f.drop 3).take n = d
      ∧ f.getD (3 + n) 0 = cks8 (f.take (3 + n)) ∧ f.getD (4 + n) 0 = 0x04 ∧ wellFormedFrame f)
    ∧ ∀ (a b : Byte) (d e : List Byte), d.length ≤ 8 → e.length ≤ 8 → assemble a d = assemble b e → a = b ∧ d = e

/-- R83: the well-formed frames are exactly the assembled ones. -/
def Obligations.WellFormedFramesAreTheAssembledOnes : Prop :=
  ∀ f : List Byte, wellFormedFrame f ↔ ∃ (a : Byte) (d : List Byte), d.length ≤ 8 ∧ f = assemble a d

/-- R83, R124, R29, R30: in a state that satisfies the invariants the frame output register and every queue entry hold a
well-formed frame, and the two frame ports present the bytes of their frame, zeros above its length. That the data outputs do so
also while their valid output is 0, and in a reset cycle, is the model's reading of R29, R30 and R34 (DEDUCED, log 17 and
log 11). -/
def Obligations.PresentedFramesAreWellFormed : Prop :=
  ∀ s : State, Invariant s.toEngine → ZeroParts s.toEngine →
    wellFormedFrame s.rxf.frame
    ∧ s.outputs.rxfFlen.toNat = s.rxf.frame.length
    ∧ (∀ (k : Nat) (h : k < 13), s.outputs.rxfFrame[k] = s.rxf.frame.getD k 0)
    ∧ (∀ e ∈ s.txq, wellFormedFrame e.frame)
    ∧ (∀ e ∈ s.txq.head?, s.outputs.txFlen.toNat = e.frame.length
        ∧ ∀ (k : Nat) (h : k < 13), s.outputs.txFrame[k] = e.frame.getD k 0)
    ∧ (s.txq = [] → s.outputs.txFlen = 0 ∧ ∀ (k : Nat) (h : k < 13), s.outputs.txFrame[k] = 0)

/-! ### Commands -/

/-- R139: NOP. -/
def Obligations.NopClearsTheResult : Prop :=
  ∀ (a l : Byte) (d : Bytes 11) (s : State),
    exec (.nop a l d) s = .next { s with
      res := { valid := true, op := 0x0, code := .ok, cks := 0, flen := 0, frame := Vector.replicate 13 0 } }

/-- R98: BUILD, with the frame of R96 or E_PAYLOAD_LEN; nothing else changes. -/
def Obligations.BuildReturnsTheFrame : Prop :=
  ∀ (a l : Byte) (d : Bytes 11) (s : State),
    let f := assemble a (d.toList.take l.toNat)
    (l.toNat ≤ 8 → exec (.build a l d) s = .next { s with
      res := { valid := true, op := 0x1, code := .ok, cks := f.getD (3 + l.toNat) 0, flen := BitVec.ofNat 4 (l.toNat + 5)
               frame := Vector.ofFn fun k => if k.val < l.toNat + 5 then f.getD k.val 0 else 0 } })
    ∧ (8 < l.toNat → exec (.build a l d) s = .next { s with
      res := { valid := true, op := 0x1, code := .payloadLen, cks := 0, flen := 0, frame := Vector.replicate 13 0 }
      st := s.st ||| 0x80 })

/-- R99: CKSUM, with the checksum of the operand bytes or E_CKSUM_LEN; nothing else changes. -/
def Obligations.CksumReturnsTheChecksum : Prop :=
  ∀ (a l : Byte) (d : Bytes 11) (s : State),
    (l.toNat ≤ 11 → exec (.cksum a l d) s = .next { s with
      res := { valid := true, op := 0x2, code := .ok, cks := cks8 (d.toList.take l.toNat), flen := 0
               frame := Vector.replicate 13 0 } })
    ∧ (11 < l.toNat → exec (.cksum a l d) s = .next { s with
      res := { valid := true, op := 0x2, code := .cksumLen, cks := 0, flen := 0, frame := Vector.replicate 13 0 }
      st := s.st ||| 0x80 })

/-- R126: SEND while the queue is not full: the frame is queued and returned, or E_PAYLOAD_LEN; nothing else changes. -/
def Obligations.SendQueuesTheFrame : Prop :=
  ∀ (a l : Byte) (d : Bytes 11) (s : State), s.txq.length ≠ 4 →
    let f := assemble a (d.toList.take l.toNat)
    (l.toNat ≤ 8 → exec (.send a l d) s = .next { s with
      txq := s.txq ++ [{ addr := a, len := BitVec.ofNat 4 l.toNat
                         data := Vector.ofFn fun k => if k.val < l.toNat then d[k.val] else 0 }]
      res := { valid := true, op := 0x3, code := .ok, cks := f.getD (3 + l.toNat) 0, flen := BitVec.ofNat 4 (l.toNat + 5)
               frame := Vector.ofFn fun k => if k.val < l.toNat + 5 then f.getD k.val 0 else 0 } })
    ∧ (8 < l.toNat → exec (.send a l d) s = .next { s with
      res := { valid := true, op := 0x3, code := .payloadLen, cks := 0, flen := 0, frame := Vector.replicate 13 0 }
      st := s.st ||| 0x80 })

/-- R26, R126, R163: a SEND while the queue is full is held: `cmd_ready` is 0, nothing is queued and no result appears. -/
def Obligations.FullQueueHoldsSend : Prop :=
  ∀ (a l : Byte) (d : Bytes 11) (s : State), s.txq.length = 4 →
    exec (.send a l d) s = .next { s with res := { s.res with valid := false } }
    ∧ (s.now.cmdWord = packCommand 0x3 a l d → s.outputs.cmdReady = false)

/-- R140: CLRST clears the sticky bits whose mask bits are 1; nothing else but the result changes. -/
def Obligations.ClrstClearsTheMaskedBits : Prop :=
  ∀ (a l : Byte) (d : Bytes 11) (s : State),
    exec (.clrst a l d) s = .next { s with
      st := s.st &&& ~~~d[0]
      res := { valid := true, op := 0x4, code := .ok, cks := 0, flen := 0, frame := Vector.replicate 13 0 } }

/-- R141: the reserved opcodes complete with E_ILLEGAL_OP and CMD_ERR and no other effect; `cmd_ready` is 1 for them in every
non-reset cycle. -/
def Obligations.ReservedOpcodesReportIllegalOp : Prop :=
  ∀ (op : BitVec 4) (a l : Byte) (d : Bytes 11) (s : State),
    let t (o : BitVec 4) : State := { s with
      st := s.st ||| 0x80
      res := { valid := true, op := o, code := .illegalOp, cks := 0, flen := 0, frame := Vector.replicate 13 0 } }
    exec (.rsv5 a l d) s = .next (t 0x5) ∧ exec (.rsv67 op a l d) s = .next (t op) ∧ exec (.rsv8f op a l d) s = .next (t op)
    ∧ (s.now.rst = false → 5 ≤ s.now.cmdOp.toNat → s.outputs.cmdReady = true)

/-- R86: the operand fields a command does not read have no effect, whatever their value; nor has the byte of a cycle with a
stream condition (R105). -/
def Obligations.UnreadOperandsHaveNoEffect : Prop :=
  ∀ (a a' l l' : Byte) (d d' : Bytes 11) (op : BitVec 4) (s : State),
    exec (.nop a l d) s = exec (.nop a' l' d') s
    ∧ exec (.rsv5 a l d) s = exec (.rsv5 a' l' d') s
    ∧ exec (.rsv67 op a l d) s = exec (.rsv67 op a' l' d') s
    ∧ exec (.rsv8f op a l d) s = exec (.rsv8f op a' l' d') s
    ∧ (d[0] = d'[0] → exec (.clrst a l d) s = exec (.clrst a' l' d') s)
    ∧ ((∀ (k : Nat) (h : k < 11), k < l.toNat → l.toNat ≤ 11 → d[k] = d'[k]) → exec (.cksum a l d) s = exec (.cksum a' l d') s)
    ∧ ((∀ (k : Nat) (h : k < 11), k < l.toNat → l.toNat ≤ 8 → d[k] = d'[k]) →
        exec (.build a l d) s = exec (.build a l d') s ∧ exec (.send a l d) s = exec (.send a l d') s)
    ∧ (8 < l.toNat → exec (.build a l d) s = exec (.build a' l d') s ∧ exec (.send a l d) s = exec (.send a' l d') s)
    ∧ ∀ (b b' : Byte) (v v' e : Bool),
        exec (.rxErr b v e) s = exec (.rxErr b' v' e) s ∧ exec (.rxEos b v) s = exec (.rxEos b' v') s
          ∧ exec (.rxIdle b) s = exec (.rxIdle b') s

/-- R50: a command writes the result registers and the sticky bits only, and only SEND appends a queue entry. -/
def Obligations.CommandsLeaveTheOtherUnitsAlone : Prop :=
  ∀ (i : Instr) (s t : State), i.isCommand = true → exec i s = .next t →
    t.rd = s.rd ∧ t.rxf = s.rxf ∧ t.spCnt = s.spCnt ∧ t.env = s.env ∧ t.drawn = s.drawn
      ∧ (∃ added, t.txq = s.txq ++ added ∧ added.length ≤ 1 ∧ (added ≠ [] → ∃ a l d, i = .send a l d))
      ∧ (t.st = s.st ∨ t.st = s.st ||| 0x80 ∨ ∃ a l d, i = .clrst a l d)

/-- R142: in a non-reset cycle `res_valid` becomes 1 exactly when a command transfers; otherwise the other result registers
keep their values. With a transfer `res_op` is the command's opcode, and CMD_ERR is set when `res_code` is not 0. -/
def Obligations.ResultAppearsExactlyAfterATransfer : Prop :=
  ∀ s t : State, s.now.rst = false → step s = .next t →
    t.res.valid = (s.now.cmdValid && s.outputs.cmdReady)
    ∧ (t.res.valid = false → t.res = { s.res with valid := false })
    ∧ (t.res.valid = true → t.res.op = s.now.cmdOp)
    ∧ (t.res.valid = true → t.res.code ≠ .ok → t.st.getLsbD 7 = true)

/-! ### The Frame Reader -/

/-- R104: with the link down every receive event discards the buffer and a frame not taken, clears `rd_closed`, and raises no
event. -/
def Obligations.LinkDownResetsTheReader : Prop :=
  ∀ (i : Instr) (s : State), i.isCommand = false → s.now.linkUp = false →
    exec i s = .next { s with
      rd := { state := .stx, addr := 0, len := 0, cnt := 0, data := Vector.replicate 8 0, fb := false, closed := false }
      rxf := { s.rxf with valid := false } }
    ∧ s.outputs.evRd = 0 ∧ s.outputs.rxfValid = false

/-- R105: end of stream and read failure with the link up. A frame waiting in the output register is kept unless the consumer
takes it in this cycle (R119). -/
def Obligations.StreamEndClosesTheReader : Prop :=
  ∀ (b : Byte) (v e : Bool) (s : State), s.now.linkUp = true →
    let rd : Reader := { state := .stx, addr := 0, len := 0, cnt := 0, data := Vector.replicate 8 0, fb := false, closed := true }
    let rxf : RxFrame := { s.rxf with valid := s.rxf.valid && !s.now.rxfReady }
    exec (.rxErr b v e) s = .next { s with rd := rd, rxf := rxf, st := s.st ||| (if e then 0x30 else 0x20) }
    ∧ exec (.rxEos b v) s = .next { s with rd := rd, rxf := rxf, st := s.st ||| 0x10 }
    ∧ (s.now.rst = false → s.now.rxErr = true → s.outputs.evRd = 6)
    ∧ (s.now.rst = false → s.now.rxErr = false → s.now.rxEos = true → s.outputs.evRd = 5)

/-- R106: a closed reader discards what is offered and changes nothing; the output handshake of R119 goes on. -/
def Obligations.ClosedReaderDiscardsBytes : Prop :=
  ∀ (b : Byte) (s : State), s.now.linkUp = true → s.rd.closed = true →
    let t : State := { s with rxf := { s.rxf with valid := s.rxf.valid && !s.now.rxfReady } }
    exec (.rxByte b) s = .next t ∧ exec (.rxIdle b) s = .next t
    ∧ (s.now.rxErr = false → s.now.rxEos = false → s.outputs.evRd = 0)

/-- R107: the drain discards every byte offered and ends in the first cycle with none. -/
def Obligations.DrainEndsAtTheFirstIdleCycle : Prop :=
  ∀ (b : Byte) (s : State), s.now.linkUp = true → s.rd.closed = false → s.rd.state = .drain → s.rxf.valid = false →
    exec (.rxByte b) s = .next s ∧ exec (.rxIdle b) s = .next { s with rd := { s.rd with state := .stx } }
    ∧ (s.now.rst = false → s.outputs.rxReady = true)
    ∧ (s.now.rxErr = false → s.now.rxEos = false → s.outputs.evRd = 0)

/-- R103's last branch and R28: with no byte, or with a byte that does not transfer because a received frame waits, the reader
changes nothing but the output handshake of R119. -/
def Obligations.NoTransferLeavesTheReader : Prop :=
  ∀ (b : Byte) (s : State), s.now.linkUp = true → s.rd.closed = false →
    let t : State := { s with rxf := { s.rxf with valid := s.rxf.valid && !s.now.rxfReady } }
    (s.rd.state ≠ .drain → exec (.rxIdle b) s = .next t) ∧ (s.rxf.valid = true → exec (.rxByte b) s = .next t)

/-- R108: a byte in `S_STX`. -/
def Obligations.AwaitStxTakesOnlyStx : Prop :=
  ∀ (b : Byte) (s : State), s.now.linkUp = true → s.rd.closed = false → s.rxf.valid = false → s.rd.state = .stx →
    (b = 0x0F → exec (.rxByte b) s = .next { s with rd := { s.rd with state := .addr } })
    ∧ (b ≠ 0x0F → exec (.rxByte b) s = .next { s with st := s.st ||| 0x01 })
    ∧ (offers s.toEngine b = true → s.outputs.evRd = if b = 0x0F then 0 else 1)

/-- R109: a byte in `S_ADDR`. -/
def Obligations.AwaitAddressTakesAnyByte : Prop :=
  ∀ (b : Byte) (s : State), s.now.linkUp = true → s.rd.closed = false → s.rxf.valid = false → s.rd.state = .addr →
    exec (.rxByte b) s = .next { s with rd := { s.rd with addr := b, state := .len } }
    ∧ (offers s.toEngine b = true → s.outputs.evRd = 0)

/-- R110, R111: a byte in `S_LEN`, a declared length or the fallback's single DATA byte. -/
def Obligations.AwaitLengthDeclaresOrFallsBack : Prop :=
  ∀ (b : Byte) (s : State), s.now.linkUp = true → s.rd.closed = false → s.rxf.valid = false → s.rd.state = .len →
    (b.toNat ≤ 8 → exec (.rxByte b) s = .next { s with
      rd := { s.rd with len := BitVec.ofNat 4 b.toNat, cnt := 0, fb := false, state := if b.toNat = 0 then .cks else .data } })
    ∧ (8 < b.toNat → exec (.rxByte b) s = .next { s with
      rd := { s.rd with data := s.rd.data.set 0 b, len := 1, cnt := 1, fb := true, state := .cks }
      st := s.st ||| 0x02 })
    ∧ (offers s.toEngine b = true → s.outputs.evRd = if b.toNat ≤ 8 then 0 else 2)

/-- R112: a byte in `S_DATA`, with `rd_cnt < 8` as R44 says of every reachable state. -/
def Obligations.ReadingDataStoresTheByte : Prop :=
  ∀ (b : Byte) (s : State) (h : s.rd.cnt.toNat < 8),
    s.now.linkUp = true → s.rd.closed = false → s.rxf.valid = false → s.rd.state = .data →
    (s.rd.cnt.toNat + 1 = s.rd.len.toNat → exec (.rxByte b) s = .next { s with
      rd := { s.rd with data := s.rd.data.set s.rd.cnt.toNat b h, cnt := s.rd.cnt + 1, state := .cks } })
    ∧ (s.rd.cnt.toNat + 1 ≠ s.rd.len.toNat → exec (.rxByte b) s = .next { s with
      rd := { s.rd with data := s.rd.data.set s.rd.cnt.toNat b h, cnt := s.rd.cnt + 1 } })
    ∧ (offers s.toEngine b = true → s.outputs.evRd = 0)

/-- R113, R114, R115: a byte in `S_CKS` against the expected checksum, with the coverage IMPLIED of this hardware (R14). A mismatch
discards the buffer and starts the drain (R118, `P_DRAIN_ON_ERROR = 1`). -/
def Obligations.AwaitChecksumComparesTheCoveredBytes : Prop :=
  ∀ (b : Byte) (s : State), s.now.linkUp = true → s.rd.closed = false → s.rxf.valid = false → s.rd.state = .cks →
    s.rd.len.toNat ≤ 8 →
    let covered : List Byte := [0x0F, s.rd.addr, BitVec.ofNat 8 s.rd.len.toNat] ++ s.rd.data.toList.take s.rd.len.toNat
    ((sumBytes covered + b.toNat) % 256 = 0 → exec (.rxByte b) s = .next { s with rd := { s.rd with state := .etx } })
    ∧ ((sumBytes covered + b.toNat) % 256 ≠ 0 → exec (.rxByte b) s = .next { s with
      rd := { s.rd with state := .drain, addr := 0, len := 0, cnt := 0, data := Vector.replicate 8 0, fb := false }
      st := s.st ||| 0x04 })
    ∧ (offers s.toEngine b = true → s.outputs.evRd = if (sumBytes covered + b.toNat) % 256 = 0 then 0 else 3)

/-- R116, R117: a byte in `S_ETX`, the end of a frame or a violation. -/
def Obligations.AwaitEtxEmitsOrResyncs : Prop :=
  ∀ (b : Byte) (s : State), s.now.linkUp = true → s.rd.closed = false → s.rxf.valid = false → s.rd.state = .etx →
    (b = 0x04 → exec (.rxByte b) s = .next { s with
      rd := { s.rd with state := .stx, addr := 0, len := 0, cnt := 0, data := Vector.replicate 8 0, fb := false }
      rxf := { valid := true, addr := s.rd.addr, len := s.rd.len, data := s.rd.data } })
    ∧ (b ≠ 0x04 → exec (.rxByte b) s = .next { s with
      rd := { s.rd with state := .drain, addr := 0, len := 0, cnt := 0, data := Vector.replicate 8 0, fb := false }
      st := s.st ||| 0x08 })
    ∧ (offers s.toEngine b = true → s.outputs.evRd = if b = 0x04 then 7 else 4)

/-- R50: a receive event writes the reader, the frame output register and sticky bits 0 to 5 only, and clears no sticky bit. -/
def Obligations.ReceiveEventsLeaveTheOtherUnitsAlone : Prop :=
  ∀ (i : Instr) (s t : State), i.isCommand = false → exec i s = .next t →
    t.txq = s.txq ∧ t.spCnt = s.spCnt ∧ t.res = s.res ∧ t.env = s.env ∧ t.drawn = s.drawn
      ∧ (∀ k, s.st.getLsbD k = true → t.st.getLsbD k = true)
      ∧ (∀ k, 6 ≤ k → t.st.getLsbD k = s.st.getLsbD k)

/-- R65, R68, R104, R119: a frame that waits in the output register is never modified by a non-reset cycle, and stays valid
exactly while the link is up and the consumer does not take it; no byte is taken meanwhile. -/
def Obligations.WaitingFrameIsKeptUntilTakenOrDropped : Prop :=
  ∀ s t : State, s.now.rst = false → s.rxf.valid = true → step s = .next t →
    t.rxf = { s.rxf with valid := s.now.linkUp && !s.now.rxfReady } ∧ s.outputs.rxReady = false
      ∧ s.outputs.rxfValid = s.now.linkUp

/-- R106, R121: a closed reader stays closed, with its registers unchanged, exactly until the Supervisor takes the link down. -/
def Obligations.ClosedReaderWaitsForLinkDown : Prop :=
  ∀ s t : State, Invariant s.toEngine → s.now.rst = false → s.rd.closed = true → step s = .next t →
    t.rd.closed = s.now.linkUp ∧ (s.now.linkUp = true → t.rd = s.rd)

/-- R91, R145, R120: the reader event of a non-reset cycle, each code with exactly its cause. -/
def Obligations.ReaderEventNamesItsCause : Prop :=
  ∀ s : State, s.now.rst = false →
    let ev := s.outputs.evRd
    let active := s.now.linkUp = true ∧ s.now.rxErr = false ∧ s.now.rxEos = false ∧ s.rd.closed = false
      ∧ s.now.rxValid = true ∧ s.rxf.valid = false
    let b := s.now.rxByte
    (ev = 1 ↔ active ∧ s.rd.state = .stx ∧ b ≠ 0x0F)
      ∧ (ev = 2 ↔ active ∧ s.rd.state = .len ∧ 8 < b.toNat)
      ∧ (ev = 3 ↔ active ∧ s.rd.state = .cks ∧ b ≠ expectedCksum Config.params s.rd)
      ∧ (ev = 4 ↔ active ∧ s.rd.state = .etx ∧ b ≠ 0x04)
      ∧ (ev = 5 ↔ s.now.linkUp = true ∧ s.now.rxErr = false ∧ s.now.rxEos = true)
      ∧ (ev = 6 ↔ s.now.linkUp = true ∧ s.now.rxErr = true)
      ∧ (ev = 7 ↔ active ∧ s.rd.state = .etx ∧ b = 0x04)

/-! ### The Send Scheduler -/

/-- R127 to R132: the scheduler's action of a non-reset cycle, for each of the five conditions; `new` is the entry a SEND of the
cycle appends (R52). -/
def Obligations.SchedulerActsByTheFirstCondition : Prop :=
  ∀ s t : State, s.now.rst = false → step s = .next t →
    let new := acceptedEntry s.toEngine
    let S := Config.params.spacing
    (0 < s.spCnt.toNat → t.spCnt.toNat = s.spCnt.toNat - 1 ∧ t.txq = s.txq ++ new
        ∧ s.outputs.txValid = false ∧ s.outputs.evTxFail = false)
    ∧ (s.spCnt.toNat = 0 → s.txq = [] → t.spCnt.toNat = 0 ∧ t.txq = new
        ∧ s.outputs.txValid = false ∧ s.outputs.evTxFail = false)
    ∧ (∀ h rest, s.spCnt.toNat = 0 → s.txq = h :: rest → s.now.linkUp = false →
        t.spCnt.toNat = S - 1 ∧ t.txq = rest ++ new ∧ s.outputs.txValid = false ∧ s.outputs.evTxFail = true
          ∧ t.st.getLsbD 6 = true)
    ∧ (∀ h rest, s.spCnt.toNat = 0 → s.txq = h :: rest → s.now.linkUp = true → s.now.txReady = true →
        t.spCnt.toNat = S - 1 ∧ t.txq = rest ++ new ∧ s.outputs.txValid = true ∧ s.outputs.evTxFail = false)
    ∧ (∀ h rest, s.spCnt.toNat = 0 → s.txq = h :: rest → s.now.linkUp = true → s.now.txReady = false →
        t.spCnt.toNat = 0 ∧ t.txq = s.txq ++ new ∧ s.outputs.txValid = true ∧ s.outputs.evTxFail = false)

/-- R11: `S` is the least number of cycles that last at least 60 ms, `S >= 1`, and the counter's values `0..S-1` fit `W_SP` bits
(R41). `P_CLK_HZ` is open: this holds whatever it is. -/
def Obligations.SpacingCyclesLastSixtyMilliseconds : Prop :=
  let S := Config.params.spacing
  let hz := Config.clkHz.val
  1 ≤ S ∧ 60 * hz ≤ 1000 * S ∧ 1000 * (S - 1) < 60 * hz ∧ S - 1 < 2 ^ Config.params.spWidth

/-- R134: two write starts with no reset cycle between them are at least `S` cycles apart, for every parameter set. With `S` from a
clock of `hz` hertz by R11, the time between them, counted in clock periods of `1 / hz` seconds, is at least 60 ms. -/
def Obligations.WriteStartsAreAtLeastSpacingApart : Prop :=
  ∀ (p : Params) (s : Engine p) (n : Nat), 0 < n → noReset n s = true →
    writeStart s = true → writeStart (after n s) = true →
    p.spacing ≤ n ∧ ∀ hz : Nat, p.spacing = Config.spacingCycles 60 hz → 60 * hz ≤ 1000 * n

/-- R135: no extra delay: when the spacing has passed and the queue, the link and the transport are ready, the next write starts;
a frame submitted to an empty queue with the spacing over in the next cycle is written in that cycle. -/
def Obligations.DeferredFrameFiresAtTheRemainingDelay : Prop :=
  ∀ (p : Params) (s : Engine p),
    (1 ≤ p.spacing → noReset (p.spacing + 1) s = true → writeStart s = true → (after p.spacing s).txq ≠ [] →
      (after p.spacing s).now.linkUp = true → (after p.spacing s).now.txReady = true →
      writeStart (after p.spacing s) = true ∧ ∀ k, 0 < k → k < p.spacing → writeStart (after k s) = false)
    ∧ (noReset 2 s = true → s.txq = [] → acceptedEntry s ≠ [] → (after 1 s).spCnt.toNat = 0 →
      (after 1 s).now.linkUp = true → (after 1 s).now.txReady = true → writeStart (after 1 s) = true)

/-- R137: while the frame at queue position `k` has not left, at most `(S - 1) + k * S + H` cycles have passed, where `H` counts
the hold cycles. -/
def Obligations.WaitingTimeIsBoundedByHolds : Prop :=
  ∀ (p : Params) (s : Engine p) (k n : Nat), 1 ≤ p.spacing → s.spCnt.toNat ≤ p.spacing - 1 → noReset n s = true →
    k < s.txq.length →
    countCycles writeStart n s ≤ k → n ≤ (p.spacing - 1) + k * p.spacing + countCycles holdCycle n s

/-- R67, R69: over any run without a reset cycle, the entries that left the queue followed by those still in it are the entries
that were in it followed by those appended: first in, first out, none lost, doubled or changed. -/
def Obligations.TransmitQueueIsFirstInFirstOut : Prop :=
  ∀ (p : Params) (n : Nat) (s : Engine p), noReset n s = true →
    departed n s ++ (after n s).txq = s.txq ++ accepted n s

/-- R70: the inbound path does not depend on the outbound one, nor the outbound on the inbound. -/
def Obligations.InboundAndOutboundAreIndependent : Prop :=
  ∀ (p : Params) (i j : Inputs) (s t : Engine p), i.rst = j.rst → i.linkUp = j.linkUp →
    (i.rxWord = j.rxWord → i.rxfReady = j.rxfReady → s.rd = t.rd → s.rxf = t.rxf →
      (concurrentCycle i s).rd = (concurrentCycle j t).rd ∧ (concurrentCycle i s).rxf = (concurrentCycle j t).rxf
        ∧ (outputsWith i s).evRd = (outputsWith j t).evRd
        ∧ (outputsWith i s).rxReady = (outputsWith j t).rxReady
        ∧ (outputsWith i s).rxfValid = (outputsWith j t).rxfValid
        ∧ (outputsWith i s).rxfFlen = (outputsWith j t).rxfFlen
        ∧ (outputsWith i s).rxfFrame = (outputsWith j t).rxfFrame)
    ∧ (i.cmdValid = j.cmdValid → i.cmdWord = j.cmdWord → i.txReady = j.txReady → s.txq = t.txq → s.spCnt = t.spCnt →
      (concurrentCycle i s).txq = (concurrentCycle j t).txq
        ∧ (concurrentCycle i s).spCnt = (concurrentCycle j t).spCnt
        ∧ (outputsWith i s).txValid = (outputsWith j t).txValid
        ∧ (outputsWith i s).txFlen = (outputsWith j t).txFlen
        ∧ (outputsWith i s).txFrame = (outputsWith j t).txFrame
        ∧ (outputsWith i s).evTxFail = (outputsWith j t).evTxFail)

/-! ### STATUS and the ports -/

/-- R46: the fields of STATUS, with the value R38 gives each reader state. -/
def Obligations.StatusWordFields : Prop :=
  ∀ s : State, s.txq.length ≤ 15 →
    let w := s.outputs.status
    w.extractLsb' 0 8 = s.st
      ∧ w.extractLsb' 8 3 = (match s.rd.state with
        | .stx => 0 | .addr => 1 | .len => 2 | .data => 3 | .cks => 4 | .etx => 5 | .drain => 6)
      ∧ w.getLsbD 11 = s.rd.closed ∧ w.getLsbD 12 = s.rxf.valid
      ∧ w.getLsbD 13 = decide (s.spCnt.toNat ≠ 0) ∧ w.getLsbD 14 = s.now.linkUp ∧ w.getLsbD 15 = false
      ∧ (w.extractLsb' 16 4).toNat = s.txq.length ∧ w.extractLsb' 20 12 = 0

/-- R143, R52, R47: after a non-reset cycle a sticky bit is 1 exactly when an event of the cycle set it, or it was 1 and no CLRST
of the cycle cleared it. -/
def Obligations.StickyBitsAreSetByEventsAndClearedByClrst : Prop :=
  ∀ s t : State, s.now.rst = false → step s = .next t →
    let cleared (k : Nat) : Prop := s.now.cmdValid = true ∧ s.now.cmdOp = 0x4 ∧ s.now.cmdData[0].getLsbD k = true
    let kept (k : Nat) : Prop := s.st.getLsbD k = true ∧ ¬ cleared k
    (t.st.getLsbD 0 = true ↔ s.outputs.evRd = 1 ∨ kept 0)
      ∧ (t.st.getLsbD 1 = true ↔ s.outputs.evRd = 2 ∨ kept 1)
      ∧ (t.st.getLsbD 2 = true ↔ s.outputs.evRd = 3 ∨ kept 2)
      ∧ (t.st.getLsbD 3 = true ↔ s.outputs.evRd = 4 ∨ kept 3)
      ∧ (t.st.getLsbD 4 = true ↔ (s.now.linkUp = true ∧ s.now.rxEos = true) ∨ kept 4)
      ∧ (t.st.getLsbD 5 = true ↔ (s.now.linkUp = true ∧ s.now.rxErr = true) ∨ kept 5)
      ∧ (t.st.getLsbD 6 = true ↔ s.outputs.evTxFail = true ∨ kept 6)
      ∧ (t.st.getLsbD 7 = true ↔ (t.res.valid = true ∧ t.res.code ≠ .ok) ∨ kept 7)

/-- R26, R28, R29, R30: when each port of the PFE is ready or valid. -/
def Obligations.PortsAreReadyAndValidAsTheRulesSay : Prop :=
  ∀ s : State,
    (s.outputs.cmdReady = true ↔ s.now.rst = false ∧ ¬ (s.now.cmdOp = 0x3 ∧ s.txq.length = 4))
    ∧ (s.outputs.rxReady = true ↔ s.now.rst = false ∧ s.rxf.valid = false)
    ∧ (s.outputs.rxfValid = true ↔ s.now.rst = false ∧ s.now.linkUp = true ∧ s.rxf.valid = true)
    ∧ (s.outputs.txValid = true ↔ s.now.rst = false ∧ s.now.linkUp = true ∧ 0 < s.txq.length ∧ s.spCnt.toNat = 0)

/-- R27, R90, R29: the result port presents CU's result registers, `res_code` with the value of each name, and the frame output
port the fields of the frame output register. That the frame output port does so also while `rxf_valid` is 0 (log 17), and that
both ports do so in a reset cycle (log 11), is the model's reading, DEDUCED. -/
def Obligations.ResultAndFramePortsPresentTheirRegisters : Prop :=
  ∀ s : State,
    s.outputs.resValid = s.res.valid ∧ s.outputs.resOp = s.res.op
    ∧ s.outputs.resCode = (match s.res.code with
      | .ok => 0 | .payloadLen => 1 | .cksumLen => 2 | .illegalOp => 3)
    ∧ s.outputs.resCks = s.res.cks ∧ s.outputs.resFlen = s.res.flen ∧ s.outputs.resFrame = s.res.frame
    ∧ s.outputs.rxfAddr = s.rxf.addr ∧ s.outputs.rxfLen = s.rxf.len ∧ s.outputs.rxfData = s.rxf.data

/-! ### Frames over the receive port -/

/-- R102: the bytes of `assemble(a, d)`, fed to an active reader in `S_STX` one per transfer, with any number of idle cycles before
and between them, make it emit exactly one frame, with these fields, with no reader event other than FRAME, and leave it in
`S_STX`. -/
def Obligations.ReaderDecodesWhatTheCodecAssembles : Prop :=
  ∀ (p : Params) (s : Engine p) (a : Byte) (d : List Byte) (script : List (Option Byte)), d.length ≤ 8 → Invariant s →
    s.rd.state = .stx → s.rd.closed = false → s.rxf.valid = false →
    scriptOf script (assemble a d) → carries script s = true →
    let t := after script.length s
    t.rd.state = .stx ∧ t.rxf.valid = true ∧ t.rxf.addr = a ∧ t.rxf.len.toNat = d.length ∧ t.rxf.payload = d
      ∧ t.rxf.frame = assemble a d
      ∧ events script.length s = List.replicate (script.length - 1) 0 ++ [7]

/-- R80, R111, R116: the fallback short form, with any number of idle cycles before and between its bytes, is received as one DATA
byte, with the checksum coverage of `P_FALLBACK_CKSUM` (R14), and delivered as the normalized frame with LENGTH 1. -/
def Obligations.FallbackShortFormIsDeliveredNormalized : Prop :=
  ∀ (p : Params) (s : Engine p) (a d₀ : Byte) (script : List (Option Byte)), 8 < d₀.toNat → Invariant s →
    s.rd.state = .stx → s.rd.closed = false → s.rxf.valid = false →
    let c := if p.fallbackCksum = .raw then cks8 [0x0F, a, d₀] else cks8 [0x0F, a, 0x01, d₀]
    scriptOf script [0x0F, a, d₀, c, 0x04] → carries script s = true →
    let t := after script.length s
    t.rd.state = .stx ∧ t.rxf.valid = true ∧ t.rxf.frame = assemble a [d₀]
      ∧ (events script.length s).filter (· ≠ 0) = [2, 7] ∧ (events script.length s).getLast? = some 7

/-- R124: a frame the reader emits without the fallback is, byte for byte, what came over the receive port from its STX to its
ETX, whatever idle cycles stood before and between the bytes. -/
def Obligations.EmittedFrameIsWhatWasReceived : Prop :=
  ∀ (p : Params) (s : Engine p) (script : List (Option Byte)), Invariant s → s.rd.state = .stx → s.rd.closed = false →
    s.rxf.valid = false → carries script s = true → events script.length s = List.replicate (script.length - 1) 0 ++ [7] →
    (after script.length s).rxf.valid = true ∧ (after script.length s).rxf.frame = script.filterMap id

/-- R123: from any reader state other than `S_STX` and `S_DRAIN`, the reader is back in one of the two once 12 further bytes have
transferred, whatever they are and whatever else happens. -/
def Obligations.ReaderRecoversWithinTwelveBytes : Prop :=
  ∀ (p : Params) (s : Engine p) (n : Nat), Invariant s → s.rd.state ≠ .stx → s.rd.state ≠ .drain →
    12 ≤ countCycles byteTransfers n s →
    ∃ k, 0 < k ∧ k ≤ n ∧ ((after k s).rd.state = .stx ∨ (after k s).rd.state = .drain)

/-- R118, R13, R165: a checksum or ETX violation clears the buffer. With `P_DRAIN_ON_ERROR = 0` the reader awaits STX at once; with
1, the value of this hardware, it discards every byte that follows without a gap and awaits STX after the first idle cycle. -/
def Obligations.ViolationResyncsAsTheParameterSays : Prop :=
  ∀ (p : Params) (s : Engine p) (b : Byte) (rest : List Byte), s.rd.closed = false → s.rxf.valid = false →
    (s.rd.state = .cks ∧ b ≠ expectedCksum p s.rd ∨ s.rd.state = .etx ∧ b ≠ 0x04) → carries ((b :: rest).map some) s = true →
    let cleared (st : RdState) : Reader :=
      { state := st, addr := 0, len := 0, cnt := 0, data := Vector.replicate 8 0, fb := false, closed := false }
    (p.drainOnError = false → (after 1 s).rd = cleared .stx)
    ∧ (p.drainOnError = true →
      let t := after (rest.length + 1) s
      t.rd = cleared .drain ∧ t.rxf = s.rxf
        ∧ events (rest.length + 1) s = (if s.rd.state = .cks then 3 else 4) :: List.replicate rest.length 0
        ∧ (t.now.rst = false → t.now.linkUp = true → t.now.rxErr = false → t.now.rxEos = false → t.now.rxValid = false →
          (after (rest.length + 2) s).rd = cleared .stx))

/-- R122: with the link up, no stream condition and no byte, a cycle leaves a partial frame in the buffer: the reader has no
timeout. -/
def Obligations.PartialFrameWaitsWithoutTimeout : Prop :=
  ∀ (p : Params) (n : Nat) (s : Engine p), s.rd.state ≠ .drain →
    (∀ k, k < n → (after k s).now.rst = false ∧ (after k s).now.linkUp = true ∧ (after k s).now.rxErr = false
      ∧ (after k s).now.rxEos = false ∧ (after k s).now.rxValid = false) →
    (after n s).rd = s.rd
end

