-- ==== Sys2Proof/Laws/Encoding.lean ====
section
/-! SUPPORT. The fields of packed words: each slice of `packCommand` and `packReceive` is the field put there (R84, R88), and the
bytes of a word give its number back (log 10). -/

namespace Sys2Proof

theorem slice_append_lo {m n k s : Nat} (x : BitVec m) (y : BitVec n) (h : s + k ≤ n) :
    (x ++ y).extractLsb' s k = y.extractLsb' s k := by
  ext i hi
  simp [BitVec.getLsbD_append]
  omega

theorem slice_append_hi {m n k s : Nat} (x : BitVec m) (y : BitVec n) (h : n ≤ s) :
    (x ++ y).extractLsb' s k = x.extractLsb' (s - n) k := by
  ext i hi
  have hlt : ¬ (s + i < n) := by omega
  simp only [BitVec.getElem_extractLsb', BitVec.getLsbD_append, hlt, if_false]
  congr 1
  omega

theorem slice_whole {n : Nat} (x : BitVec n) : x.extractLsb' 0 n = x := by
  ext i hi
  simp

/-- A slice of `packCommand`, with the width written as the sum of the fields' widths. -/
theorem slice_packCommand (op : BitVec 4) (a l : Byte) (d : Bytes 11) (s k : Nat) :
    (packCommand op a l d).extractLsb' s k =
      BitVec.extractLsb' (n := 8 + 8 + 8 + 8 + 8 + 8 + 8 + 8 + 8 + 8 + 8 + 8 + 8 + 4) s k
        (d[10] ++ d[9] ++ d[8] ++ d[7] ++ d[6] ++ d[5] ++ d[4] ++ d[3] ++ d[2] ++ d[1] ++ d[0] ++ l ++ a ++ op) := rfl

@[simp] theorem opField_packCommand (op : BitVec 4) (a l : Byte) (d : Bytes 11) : opField (packCommand op a l d) = op := by
  rw [opField, slice_packCommand, slice_append_lo _ _ (by decide), slice_whole]

@[simp] theorem addrField_packCommand (op : BitVec 4) (a l : Byte) (d : Bytes 11) :
    addrField (packCommand op a l d) = a := by
  rw [addrField, slice_packCommand, slice_append_hi _ _ (by decide), slice_append_lo _ _ (by decide)]
  exact slice_whole a

@[simp] theorem lenField_packCommand (op : BitVec 4) (a l : Byte) (d : Bytes 11) :
    lenField (packCommand op a l d) = l := by
  rw [lenField, slice_packCommand, slice_append_hi _ _ (by decide), slice_append_hi _ _ (by decide),
    slice_append_lo _ _ (by decide)]
  exact slice_whole l

@[simp] theorem dataField_packCommand (op : BitVec 4) (a l : Byte) (d : Bytes 11) :
    dataField (packCommand op a l d) = d := by
  apply Vector.ext
  intro k hk
  simp only [dataField, Vector.getElem_ofFn]
  rw [slice_packCommand]
  interval_cases k
  all_goals
    repeat rw [slice_append_hi _ _ (by decide)]
    try rw [slice_append_lo _ _ (by decide)]
    exact slice_whole _

/-- Packing a word's fields gives the word back. -/
theorem packCommand_fields (w : CmdWord) : packCommand (opField w) (addrField w) (lenField w) (dataField w) = w := by
  simp only [packCommand, opField, addrField, lenField, dataField, Vector.getElem_ofFn]
  apply BitVec.eq_of_getLsbD_eq
  intro i hi
  simp only [BitVec.getLsbD_append, BitVec.getLsbD_extractLsb']
  interval_cases i <;> simp

@[simp] theorem slice_packReceive (err eos valid : Bool) (b : Byte) : (packReceive err eos valid b).extractLsb' 0 8 = b := by
  show BitVec.extractLsb' (n := 1 + 1 + 1 + 8) 0 8 (BitVec.ofBool err ++ BitVec.ofBool eos ++ BitVec.ofBool valid ++ b) = b
  rw [slice_append_lo _ _ (by decide), slice_whole]

@[simp] theorem packReceive_bit8 (err eos valid : Bool) (b : Byte) : (packReceive err eos valid b).getLsbD 8 = valid := by
  simp only [packReceive, BitVec.getLsbD_append]
  simp

@[simp] theorem packReceive_bit9 (err eos valid : Bool) (b : Byte) : (packReceive err eos valid b).getLsbD 9 = eos := by
  simp only [packReceive, BitVec.getLsbD_append]
  simp

@[simp] theorem packReceive_bit10 (err eos valid : Bool) (b : Byte) : (packReceive err eos valid b).getLsbD 10 = err := by
  simp only [packReceive, BitVec.getLsbD_append]
  simp

/-- Packing a receive-event word's fields gives the word back. -/
theorem packReceive_fields (w : RxWord) :
    packReceive (w.getLsbD 10) (w.getLsbD 9) (w.getLsbD 8) (w.extractLsb' 0 8) = w := by
  apply BitVec.eq_of_getLsbD_eq
  intro i hi
  simp only [packReceive, BitVec.getLsbD_append, BitVec.getLsbD_extractLsb']
  interval_cases i <;> simp

@[simp] theorem bytesOfNat_length (k n : Nat) : (bytesOfNat k n).length = k := by
  induction k generalizing n with
  | zero => rfl
  | succ k ih => simp [bytesOfNat, ih]

theorem natOfBytes_lt (bs : List Byte) : natOfBytes bs < 256 ^ bs.length := by
  induction bs with
  | nil => simp [natOfBytes]
  | cons b bs ih =>
    have := b.isLt
    simp only [natOfBytes, List.length_cons, Nat.pow_succ]
    omega

theorem natOfBytes_bytesOfNat (k n : Nat) (h : n < 256 ^ k) : natOfBytes (bytesOfNat k n) = n := by
  induction k generalizing n with
  | zero => simp_all [bytesOfNat, natOfBytes]
  | succ k ih =>
    have hdiv : n / 256 < 256 ^ k := by rw [Nat.pow_succ] at h; omega
    simp only [bytesOfNat, natOfBytes, ih _ hdiv, BitVec.toNat_ofNat]
    omega

theorem bytesOfNat_natOfBytes (bs : List Byte) : bytesOfNat bs.length (natOfBytes bs) = bs := by
  induction bs with
  | nil => rfl
  | cons b bs ih =>
    have hb := b.isLt
    have hdiv : (b.toNat + 256 * natOfBytes bs) / 256 = natOfBytes bs := by omega
    simp only [List.length_cons, natOfBytes, bytesOfNat, hdiv, ih, List.cons.injEq, and_true]
    rw [← BitVec.toNat_inj, BitVec.toNat_ofNat]
    omega

end Sys2Proof
end

