-- ==== Sys2Proof/Laws/State.lean ====
section
/-! SUPPORT. One lemma per field per update of the state, each true by definition, so that no proof unfolds a record update. -/

namespace Sys2Proof.Machine

variable {p : Params}

/-! ### CU's writes -/

@[simp] theorem applyCu_rd (s : Engine p) (w : CuWrites) : (applyCu s w).rd = s.rd := rfl
@[simp] theorem applyCu_rxf (s : Engine p) (w : CuWrites) : (applyCu s w).rxf = s.rxf := rfl
@[simp] theorem applyCu_txq (s : Engine p) (w : CuWrites) : (applyCu s w).txq = s.txq ++ w.push.toList := rfl
@[simp] theorem applyCu_spCnt (s : Engine p) (w : CuWrites) : (applyCu s w).spCnt = s.spCnt := rfl
@[simp] theorem applyCu_st (s : Engine p) (w : CuWrites) : (applyCu s w).st = (s.st &&& ~~~w.clear) ||| w.set := rfl
@[simp] theorem applyCu_res (s : Engine p) (w : CuWrites) : (applyCu s w).res = w.result := rfl
@[simp] theorem applyCu_env (s : Engine p) (w : CuWrites) : (applyCu s w).env = s.env := rfl
@[simp] theorem applyCu_drawn (s : Engine p) (w : CuWrites) : (applyCu s w).drawn = s.drawn := rfl
@[simp] theorem applyCu_now (s : Engine p) (w : CuWrites) : (applyCu s w).now = s.now := rfl

/-! ### RD's writes -/

@[simp] theorem applyRd_rd (s : Engine p) (w : RdWrites) : (applyRd s w).rd = w.rd := rfl
@[simp] theorem applyRd_rxf (s : Engine p) (w : RdWrites) : (applyRd s w).rxf = w.rxf := rfl
@[simp] theorem applyRd_txq (s : Engine p) (w : RdWrites) : (applyRd s w).txq = s.txq := rfl
@[simp] theorem applyRd_spCnt (s : Engine p) (w : RdWrites) : (applyRd s w).spCnt = s.spCnt := rfl
@[simp] theorem applyRd_st (s : Engine p) (w : RdWrites) : (applyRd s w).st = s.st ||| w.set := rfl
@[simp] theorem applyRd_res (s : Engine p) (w : RdWrites) : (applyRd s w).res = s.res := rfl
@[simp] theorem applyRd_env (s : Engine p) (w : RdWrites) : (applyRd s w).env = s.env := rfl
@[simp] theorem applyRd_drawn (s : Engine p) (w : RdWrites) : (applyRd s w).drawn = s.drawn := rfl
@[simp] theorem applyRd_now (s : Engine p) (w : RdWrites) : (applyRd s w).now = s.now := rfl

/-! ### SS's writes -/

@[simp] theorem applySs_rd (s : Engine p) (w : SsWrites p) : (applySs s w).rd = s.rd := rfl
@[simp] theorem applySs_rxf (s : Engine p) (w : SsWrites p) : (applySs s w).rxf = s.rxf := rfl
@[simp] theorem applySs_txq (s : Engine p) (w : SsWrites p) : (applySs s w).txq = if w.pop then s.txq.tail else s.txq := rfl
@[simp] theorem applySs_spCnt (s : Engine p) (w : SsWrites p) : (applySs s w).spCnt = w.spCnt := rfl
@[simp] theorem applySs_st (s : Engine p) (w : SsWrites p) : (applySs s w).st = s.st ||| w.set := rfl
@[simp] theorem applySs_res (s : Engine p) (w : SsWrites p) : (applySs s w).res = s.res := rfl
@[simp] theorem applySs_env (s : Engine p) (w : SsWrites p) : (applySs s w).env = s.env := rfl
@[simp] theorem applySs_drawn (s : Engine p) (w : SsWrites p) : (applySs s w).drawn = s.drawn := rfl
@[simp] theorem applySs_now (s : Engine p) (w : SsWrites p) : (applySs s w).now = s.now := rfl

/-! ### The combination of R52 -/

@[simp] theorem combine_rd (s : Engine p) (cu : CuWrites) (rd : RdWrites) (ss : SsWrites p) :
    (combine s cu rd ss).rd = rd.rd := rfl
@[simp] theorem combine_rxf (s : Engine p) (cu : CuWrites) (rd : RdWrites) (ss : SsWrites p) :
    (combine s cu rd ss).rxf = rd.rxf := rfl
@[simp] theorem combine_txq (s : Engine p) (cu : CuWrites) (rd : RdWrites) (ss : SsWrites p) :
    (combine s cu rd ss).txq = (if ss.pop then s.txq.tail else s.txq) ++ cu.push.toList := rfl
@[simp] theorem combine_spCnt (s : Engine p) (cu : CuWrites) (rd : RdWrites) (ss : SsWrites p) :
    (combine s cu rd ss).spCnt = ss.spCnt := rfl
@[simp] theorem combine_st (s : Engine p) (cu : CuWrites) (rd : RdWrites) (ss : SsWrites p) :
    (combine s cu rd ss).st = (s.st &&& ~~~cu.clear) ||| (rd.set ||| ss.set ||| cu.set) := rfl
@[simp] theorem combine_res (s : Engine p) (cu : CuWrites) (rd : RdWrites) (ss : SsWrites p) :
    (combine s cu rd ss).res = cu.result := rfl
@[simp] theorem combine_env (s : Engine p) (cu : CuWrites) (rd : RdWrites) (ss : SsWrites p) :
    (combine s cu rd ss).env = s.env := rfl
@[simp] theorem combine_drawn (s : Engine p) (cu : CuWrites) (rd : RdWrites) (ss : SsWrites p) :
    (combine s cu rd ss).drawn = s.drawn := rfl

/-! ### The reset state -/

@[simp] theorem State.reset_toEngine : State.reset.toEngine = Engine.reset := rfl
@[simp] theorem Engine.reset_rd (p : Params) : (Engine.reset (p := p)).rd = Reader.reset := rfl
@[simp] theorem Engine.reset_rxf (p : Params) : (Engine.reset (p := p)).rxf = RxFrame.reset := rfl
@[simp] theorem Engine.reset_txq (p : Params) : (Engine.reset (p := p)).txq = [] := rfl
@[simp] theorem Engine.reset_spCnt (p : Params) : (Engine.reset (p := p)).spCnt = 0 := BitVec.zero_eq
@[simp] theorem Engine.reset_st (p : Params) : (Engine.reset (p := p)).st = 0 := rfl
@[simp] theorem Engine.reset_res (p : Params) : (Engine.reset (p := p)).res = Result.reset := rfl
@[simp] theorem Engine.reset_env (p : Params) : (Engine.reset (p := p)).env = [] := rfl
@[simp] theorem Engine.reset_drawn (p : Params) : (Engine.reset (p := p)).drawn = 0 := rfl

/-! ### The clock edge, the reset cycle, a placed word -/

@[simp] theorem Engine.nextRow_rd (s : Engine p) : (s.nextRow).rd = s.rd := rfl
@[simp] theorem Engine.nextRow_rxf (s : Engine p) : (s.nextRow).rxf = s.rxf := rfl
@[simp] theorem Engine.nextRow_txq (s : Engine p) : (s.nextRow).txq = s.txq := rfl
@[simp] theorem Engine.nextRow_spCnt (s : Engine p) : (s.nextRow).spCnt = s.spCnt := rfl
@[simp] theorem Engine.nextRow_st (s : Engine p) : (s.nextRow).st = s.st := rfl
@[simp] theorem Engine.nextRow_res (s : Engine p) : (s.nextRow).res = s.res := rfl
@[simp] theorem Engine.nextRow_env (s : Engine p) : (s.nextRow).env = s.env.tail := rfl
@[simp] theorem Engine.nextRow_drawn (s : Engine p) : (s.nextRow).drawn = if s.env.isEmpty then s.drawn + 1 else s.drawn := rfl
@[simp] theorem Engine.resetCycle_rd (s : Engine p) : (s.resetCycle).rd = Reader.reset := rfl
@[simp] theorem Engine.resetCycle_rxf (s : Engine p) : (s.resetCycle).rxf = RxFrame.reset := rfl
@[simp] theorem Engine.resetCycle_txq (s : Engine p) : (s.resetCycle).txq = [] := rfl
@[simp] theorem Engine.resetCycle_spCnt (s : Engine p) : (s.resetCycle).spCnt = 0 := BitVec.zero_eq
@[simp] theorem Engine.resetCycle_st (s : Engine p) : (s.resetCycle).st = 0 := rfl
@[simp] theorem Engine.resetCycle_res (s : Engine p) : (s.resetCycle).res = Result.reset := rfl
@[simp] theorem Engine.resetCycle_env (s : Engine p) : (s.resetCycle).env = s.env.tail := rfl
@[simp] theorem Engine.resetCycle_drawn (s : Engine p) :
    (s.resetCycle).drawn = if s.env.isEmpty then s.drawn + 1 else s.drawn := rfl
@[simp] theorem State.placeWord_rd (s : State) (w : PortWord) : (s.placeWord w).rd = s.rd := rfl
@[simp] theorem State.placeWord_rxf (s : State) (w : PortWord) : (s.placeWord w).rxf = s.rxf := rfl
@[simp] theorem State.placeWord_txq (s : State) (w : PortWord) : (s.placeWord w).txq = s.txq := rfl
@[simp] theorem State.placeWord_spCnt (s : State) (w : PortWord) : (s.placeWord w).spCnt = s.spCnt := rfl
@[simp] theorem State.placeWord_st (s : State) (w : PortWord) : (s.placeWord w).st = s.st := rfl
@[simp] theorem State.placeWord_res (s : State) (w : PortWord) : (s.placeWord w).res = s.res := rfl
@[simp] theorem State.placeWord_env (s : State) (w : PortWord) : (s.placeWord w).env = portRow w :: s.env.tail := rfl
@[simp] theorem State.placeWord_drawn (s : State) (w : PortWord) : (s.placeWord w).drawn = s.drawn := rfl
@[simp] theorem State.placeWord_now (s : State) (w : PortWord) : (s.placeWord w).now = portRow w := rfl

/-! ### The reader's buffer -/

@[simp] theorem Reader.clear_state (r : Reader) : r.clear.state = r.state := rfl
@[simp] theorem Reader.clear_addr (r : Reader) : r.clear.addr = 0 := rfl
@[simp] theorem Reader.clear_len (r : Reader) : r.clear.len = 0 := rfl
@[simp] theorem Reader.clear_cnt (r : Reader) : r.clear.cnt = 0 := rfl
@[simp] theorem Reader.clear_data (r : Reader) : r.clear.data = Vector.replicate 8 0 := rfl
@[simp] theorem Reader.clear_fb (r : Reader) : r.clear.fb = false := rfl
@[simp] theorem Reader.clear_closed (r : Reader) : r.clear.closed = r.closed := rfl
@[simp] theorem Reader.resync_state (p : Params) (r : Reader) : (r.resync p).state = if p.drainOnError then .drain else .stx := rfl
@[simp] theorem Reader.resync_addr (p : Params) (r : Reader) : (r.resync p).addr = 0 := rfl
@[simp] theorem Reader.resync_len (p : Params) (r : Reader) : (r.resync p).len = 0 := rfl
@[simp] theorem Reader.resync_cnt (p : Params) (r : Reader) : (r.resync p).cnt = 0 := rfl
@[simp] theorem Reader.resync_data (p : Params) (r : Reader) : (r.resync p).data = Vector.replicate 8 0 := rfl
@[simp] theorem Reader.resync_fb (p : Params) (r : Reader) : (r.resync p).fb = false := rfl
@[simp] theorem Reader.resync_closed (p : Params) (r : Reader) : (r.resync p).closed = r.closed := rfl

end Sys2Proof.Machine
end

