-- ==== Sys2Proof/Laws/Ops.lean ====
section
/-! SUPPORT. What each shared operation can do, said once: byte sequences and the codec, operands, the unit writes, and one
clock cycle. -/

namespace Sys2Proof.Machine

/-! ### Byte sequences and the codec -/

@[simp] theorem sumBytes_nil : sumBytes [] = 0 := rfl

@[simp] theorem sumBytes_cons (b : Byte) (s : List Byte) : sumBytes (b :: s) = b.toNat + sumBytes s := rfl

@[simp] theorem sumBytes_append (s t : List Byte) : sumBytes (s ++ t) = sumBytes s + sumBytes t := by
  induction s with
  | nil => simp
  | cons b s ih => simp [ih]; omega

theorem cks8_toNat (s : List Byte) : (cks8 s).toNat = (0x100 - sumBytes s % 256) % 256 := by
  simp [cks8]

/-- A byte is the checksum of `s` exactly when it completes the sum to 0 modulo 256. -/
theorem eq_cks8_iff (s : List Byte) (b : Byte) : b = cks8 s ↔ (sumBytes s + b.toNat) % 256 = 0 := by
  have hb := b.isLt
  rw [← BitVec.toNat_inj, cks8_toNat]
  omega

@[simp] theorem frameHead_length (a : Byte) (d : List Byte) : (frameHead a d).length = d.length + 3 := by
  simp [frameHead]

@[simp] theorem assemble_length (a : Byte) (d : List Byte) : (assemble a d).length = d.length + 5 := by
  simp [assemble]

@[simp] theorem padBytes_getElem (n : Nat) (l : List Byte) (k : Nat) (h : k < n) : (padBytes n l)[k] = l.getD k 0 := by
  simp [padBytes]

@[simp] theorem prefixBytes_length {n : Nat} (v : Bytes n) (len : Nat) : (prefixBytes v len).length = min len n := by
  simp [prefixBytes]

/-! ### Operands -/

theorem payloadOperand_of_le {len : Byte} (data : Bytes 11) (h : len.toNat ≤ 8) :
    payloadOperand len data = some (prefixBytes data len.toNat) := if_pos h

theorem payloadOperand_of_gt {len : Byte} (data : Bytes 11) (h : 8 < len.toNat) : payloadOperand len data = none :=
  if_neg (Nat.not_le.mpr h)

theorem cksumOperand_of_le {len : Byte} (data : Bytes 11) (h : len.toNat ≤ 11) :
    cksumOperand len data = some (prefixBytes data len.toNat) := if_pos h

theorem cksumOperand_of_gt {len : Byte} (data : Bytes 11) (h : 11 < len.toNat) : cksumOperand len data = none :=
  if_neg (Nat.not_le.mpr h)

theorem Engine.queueFull_iff {p : Params} (s : Engine p) : s.queueFull = true ↔ s.txq.length = p.txqDepth := by
  simp [Engine.queueFull]

/-! ### The reader's writes -/

@[simp] theorem rdHandshake_rd {p : Params} (i : Inputs) (s : Engine p) (w : RdWrites) : (rdHandshake i s w).rd = w.rd := by
  unfold rdHandshake; split <;> rfl

@[simp] theorem rdHandshake_event {p : Params} (i : Inputs) (s : Engine p) (w : RdWrites) : (rdHandshake i s w).event = w.event := by
  unfold rdHandshake; split <;> rfl

@[simp] theorem rdHandshake_set {p : Params} (i : Inputs) (s : Engine p) (w : RdWrites) : (rdHandshake i s w).set = w.set := by
  unfold rdHandshake; split <;> rfl

/-- The handshake only ever lowers `rxf_valid_reg` (R119). -/
theorem rdHandshake_rxf {p : Params} (i : Inputs) (s : Engine p) (w : RdWrites) :
    (rdHandshake i s w).rxf = { w.rxf with valid := w.rxf.valid && !(i.linkUp && s.rxf.valid && i.rxfReady) } := by
  rcases w with ⟨_, ⟨_, _, _, _⟩, _, _⟩
  cases hl : i.linkUp <;> cases hv : s.rxf.valid <;> cases hr : i.rxfReady <;> simp [rdHandshake, hl, hv, hr]

/-- With no frame waiting the handshake does nothing. -/
theorem rdHandshake_of_free {p : Params} {i : Inputs} {s : Engine p} (w : RdWrites) (h : s.rxf.valid = false) : rdHandshake i s w = w := by
  simp [rdHandshake, h]

/-! ### The scheduler's action (R127) -/

/-- Each action with exactly its condition. -/
theorem ssAction_cases {p : Params} (i : Inputs) (s : Engine p) :
    (ssAction i s = .countdown ∧ 0 < s.spCnt.toNat)
    ∨ (ssAction i s = .idle ∧ s.spCnt.toNat = 0 ∧ s.txq = [])
    ∨ (ssAction i s = .drop ∧ s.spCnt.toNat = 0 ∧ s.txq ≠ [] ∧ i.linkUp = false)
    ∨ (ssAction i s = .writeStart ∧ s.spCnt.toNat = 0 ∧ s.txq ≠ [] ∧ i.linkUp = true ∧ i.txReady = true)
    ∨ (ssAction i s = .hold ∧ s.spCnt.toNat = 0 ∧ s.txq ≠ [] ∧ i.linkUp = true ∧ i.txReady = false) := by
  unfold ssAction
  split
  · simp_all
  · split
    · simp_all
    · split
      · simp_all
      · split <;> simp_all

/-- The load value is `S - 1`: it fits `W_SP` bits (R41). -/
@[simp] theorem spLoad_toNat (p : Params) : (spLoad p).toNat = p.spacing - 1 := by
  rw [spLoad, BitVec.toNat_ofNat, Nat.mod_eq_of_lt]
  have h : p.spacing ≤ 2 ^ p.spWidth :=
    (Nat.le_pow_clog Nat.one_lt_two _).trans (Nat.pow_le_pow_right Nat.two_pos (Nat.le_max_right _ _))
  have : 0 < 2 ^ p.spWidth := Nat.two_pow_pos _
  omega

/-- The countdown of R128 does not wrap: it is taken while the counter is above 0. -/
theorem spCnt_countdown {p : Params} {s : Engine p} (h : 0 < s.spCnt.toNat) : (s.spCnt - 1).toNat = s.spCnt.toNat - 1 := by
  have h1 : 1 < 2 ^ p.spWidth := Nat.one_lt_two_pow (by simp [Params.spWidth])
  rw [BitVec.toNat_sub_of_le] <;> simp [BitVec.le_def, Nat.mod_eq_of_lt h1]
  omega

/-! ### Instructions -/

/-- Every instruction answers a next state and leaves the input rows and the spacing counter alone. -/
theorem exec_keeps_rows (i : Instr) (s t : State) (h : exec i s = .next t) :
    t.env = s.env ∧ t.drawn = s.drawn ∧ t.spCnt = s.spCnt := by
  cases i <;> cases h <;> exact ⟨rfl, rfl, rfl⟩

/-! ### One clock cycle -/

theorem advance_of_reset {p : Params} {s : Engine p} (h : s.now.rst = true) : advance s = s.resetCycle := if_pos h

theorem advance_of_run {p : Params} {s : Engine p} (h : s.now.rst = false) :
    advance s = (combine s (cuStep s.now s) (rdStep s.now s) (ssStep s.now s)).nextRow := by
  simp [advance, concurrentCycle, h]

@[simp] theorem after_zero {p : Params} (s : Engine p) : after 0 s = s := rfl

@[simp] theorem after_succ {p : Params} (n : Nat) (s : Engine p) : after (n + 1) s = after n (advance s) := rfl

end Sys2Proof.Machine
end

