-- ==== Sys2Proof/Laws/Cycle.lean ====
section
/-! SUPPORT. What the parts of one clock cycle do, said once: the writes of each unit, how a decoded instruction and its unit's
step agree, and what a cycle makes of the queue, the spacing counter and an offered byte. -/

namespace Sys2Proof.Machine

/-! ### CU's writes at a state -/

theorem and_allOnes8 (x : BitVec 8) : x &&& 255#8 = x := by
  have : 255#8 = BitVec.allOnes 8 := by decide
  rw [this, BitVec.and_allOnes]

/-- Writes of a result alone. -/
theorem applyCu_result {p : Params} (s : Engine p) (r : Result) :
    applyCu s { result := r, push := none, clear := 0, set := 0 } = { s with res := r } := by
  simp [applyCu, and_allOnes8]

theorem applyCu_noTransfer {p : Params} (s : Engine p) : applyCu s (noTransfer s) = { s with res := { s.res with valid := false } } :=
  applyCu_result s _

/-- A command that completes with `res_code` 0 and no other effect. -/
theorem applyCu_completed_ok {p : Params} (s : Engine p) (r : Result) (h : r.code = .ok) :
    applyCu s (completed r) = { s with res := r } := by
  simp [applyCu, completed, cmdErrMask, h, and_allOnes8]

/-- A command that completes with an error code: CMD_ERR is set (R142). -/
theorem applyCu_completed_err {p : Params} (s : Engine p) (r : Result) (h : r.code ≠ .ok) :
    applyCu s (completed r) = { s with res := r, st := s.st ||| 0x80 } := by
  simp [applyCu, completed, cmdErrMask, h, and_allOnes8, Sticky.cmdErr]

/-- A result appears exactly with a transfer, and carries the command's opcode and CMD_ERR for its code (R142). -/
theorem cuStep_result {p : Params} (i : Inputs) (s : Engine p) :
    (cuStep i s).result.valid = cmdXfer i s
    ∧ (cmdXfer i s = false → cuStep i s = noTransfer s)
    ∧ (cmdXfer i s = true →
        (cuStep i s).result.op = i.cmdOp ∧ (cuStep i s).set = cmdErrMask (cuStep i s).result.code) := by
  unfold cuStep
  cases cmdXfer i s
  · simp [noTransfer]
  · simp only [if_true]
    refine ⟨?_, by simp, fun _ => ?_⟩
    · split; rfl
      split; (simp only [buildWrites]; split <;> rfl)
      split; (simp only [cksumWrites]; split <;> rfl)
      split; (simp only [sendWrites]; split <;> rfl)
      split <;> rfl
    · split; (rename_i h; rw [h]; exact ⟨rfl, rfl⟩)
      split; (rename_i h; rw [h]; simp only [buildWrites]; split <;> exact ⟨rfl, rfl⟩)
      split; (rename_i h; rw [h]; simp only [cksumWrites]; split <;> exact ⟨rfl, rfl⟩)
      split; (rename_i h; rw [h]; simp only [sendWrites]; split <;> exact ⟨rfl, rfl⟩)
      split; (rename_i h; rw [h]; exact ⟨rfl, rfl⟩)
      exact ⟨rfl, rfl⟩

/-! ### A byte in the reader's buffer -/

theorem prefixBytes_setIfInBounds (v : Bytes 8) (n : Nat) (b : Byte) (h : n < 8) :
    prefixBytes (v.setIfInBounds n b) (n + 1) = prefixBytes v n ++ [b] := by
  unfold prefixBytes
  rw [Vector.toList_setIfInBounds, List.take_add_one]
  congr 1
  · apply List.ext_getElem?; intro k
    simp only [List.getElem?_take]
    split
    · rw [List.getElem?_set_ne (by omega)]
    · rfl
  · simp [h]

/-! ### RD's step by receive-event class (R88, R103) -/

theorem rdStep_err {p : Params} (i : Inputs) (s : Engine p) (h : i.rxErr = true) :
    rdStep i s = rxEndWrites i i.rxEos true s := by
  unfold rdStep rxEndWrites
  cases i.linkUp <;> simp [h]

theorem rdStep_eos {p : Params} (i : Inputs) (s : Engine p) (h : i.rxErr = false) (h' : i.rxEos = true) :
    rdStep i s = rxEndWrites i true false s := by
  unfold rdStep rxEndWrites
  cases i.linkUp <;> simp [h, h']

theorem rdStep_byte {p : Params} (i : Inputs) (s : Engine p) (hr : i.rst = false) (h : i.rxErr = false) (h' : i.rxEos = false)
    (h'' : i.rxValid = true) : rdStep i s = rxByteWrites i i.rxByte s := by
  unfold rdStep rxByteWrites
  simp only [h, h', h'', rxXfer, rxReady, hr]
  congr 1
  cases i.linkUp <;> cases s.rd.closed <;> cases s.rxf.valid <;> simp
  intro hd; simp [byteRule, hd]

theorem rdStep_idle {p : Params} (i : Inputs) (s : Engine p) (h : i.rxErr = false) (h' : i.rxEos = false)
    (h'' : i.rxValid = false) : rdStep i s = rxIdleWrites i s := by
  unfold rdStep rxIdleWrites
  simp only [h, h', h'', rxXfer]
  congr 1
  cases i.linkUp <;> cases s.rd.closed <;> simp

/-- The event of a non-reset cycle, branch by branch (R103). -/
theorem rdStep_event {p : Params} (i : Inputs) (s : Engine p) :
    (rdStep i s).event =
      if i.linkUp = false then .none
      else if i.rxErr = true then .ioErr
      else if i.rxEos = true then .closed
      else if s.rd.closed = true then .none
      else if s.rd.state = .drain then .none
      else if rxXfer i s = true then (byteRule i.rxByte s).event
      else .none := by
  unfold rdStep; rw [rdHandshake_event]
  cases i.linkUp
  · simp [rdLinkDown]
  · cases i.rxErr <;> cases i.rxEos <;> simp [rdStreamEnd]
    split; rfl
    split; (split <;> rfl)
    split <;> rfl

/-- RD reads neither CU's writes nor the queue. -/
theorem rdStep_applyCu {p : Params} (i : Inputs) (s : Engine p) (w : CuWrites) : rdStep i (applyCu s w) = rdStep i s := rfl

/-! ### A decoded instruction and its unit's step -/

/-- The decoded receive event does what RD's step does. -/
theorem exec_decodeReceive (s : State) (hr : s.now.rst = false) :
    exec (decodeReceive s.now.rxWord) s = .next { toEngine := applyRd s.toEngine (rdStep s.now s.toEngine) } := by
  unfold decodeReceive
  by_cases h10 : s.now.rxWord.getLsbD 10 = true
  · rw [if_pos h10, rdStep_err _ _ h10]; rfl
  · have h10' : s.now.rxErr = false := by simpa [Inputs.rxErr] using h10
    rw [if_neg h10]
    by_cases h9 : s.now.rxWord.getLsbD 9 = true
    · rw [if_pos h9, rdStep_eos _ _ h10' h9]; rfl
    · have h9' : s.now.rxEos = false := by simpa [Inputs.rxEos] using h9
      rw [if_neg h9]
      by_cases h8 : s.now.rxWord.getLsbD 8 = true
      · rw [if_pos h8, rdStep_byte _ _ hr h10' h9' h8]; rfl
      · have h8' : s.now.rxValid = false := by simpa [Inputs.rxValid] using h8
        rw [if_neg h8, rdStep_idle _ _ h10' h9' h8']; rfl

/-- CU's part of the step does what CU's step at the pins does. -/
theorem runCommand_eq (s : State) (hr : s.now.rst = false) :
    runCommand s = .next { toEngine := applyCu s.toEngine (cuStep s.now s.toEngine) } := by
  unfold runCommand fetchCommand cuStep cmdXfer cmdReady
  cases hv : s.now.cmdValid
  · simp
  · simp only [if_true, decodeCommand]
    have hop : s.now.cmdOp = opField s.now.cmdWord := rfl
    have ha : s.now.cmdAddr = addrField s.now.cmdWord := rfl
    have hl : s.now.cmdLen = lenField s.now.cmdWord := rfl
    have hd : s.now.cmdData = dataField s.now.cmdWord := rfl
    rw [hop, ha, hl, hd]
    generalize opField s.now.cmdWord = op
    have hlt := op.isLt
    generalize hn : op.toNat = n at *
    have hop2 : op = BitVec.ofNat 4 n := by rw [← hn]; simp
    interval_cases n <;> subst hop2 <;>
      simp [hr, exec, execNop, execBuild, execCksum, execSend, execClrst, execRsv5, execRsv67, execRsv8f]
    cases s.queueFull <;> simp

/-- Applying the units' writes one after the other is the combination of R52. -/
theorem endCycle_eq (s : State) (cu : CuWrites) (rd : RdWrites) :
    endCycle s { toEngine := applyRd (applyCu s.toEngine cu) rd }
      = { toEngine := (combine s.toEngine cu rd (ssStep s.now s.toEngine)).nextRow } := by
  have hq : (ssStep s.now s.toEngine).pop = true → s.txq ≠ [] := by
    unfold ssStep
    rcases ssAction_cases s.now s.toEngine with h | h | h | h | h <;> simp_all [ssWrites]
  unfold endCycle
  generalize ssStep s.now s.toEngine = ss at *
  have h1 : (if ss.pop = true then (s.txq ++ cu.push.toList).tail else s.txq ++ cu.push.toList)
      = (if ss.pop = true then s.txq.tail else s.txq) ++ cu.push.toList := by
    split
    · rename_i h; obtain ⟨a, l, hl⟩ := List.exists_cons_of_ne_nil (hq h); simp [hl]
    · rfl
  have h2 : (((s.st &&& ~~~cu.clear) ||| cu.set) ||| rd.set) ||| ss.set
      = (s.st &&& ~~~cu.clear) ||| (rd.set ||| ss.set ||| cu.set) := by
    ext i hi; simp
    cases s.st[i] <;> cases cu.clear[i] <;> cases cu.set[i] <;> cases rd.set[i] <;> cases ss.set[i] <;> rfl
  unfold Engine.nextRow combine applySs applyRd applyCu
  simp only [h1, h2]

/-! ### Runs -/

theorem after_add {p : Params} (m n : Nat) (s : Engine p) : after (m + n) s = after n (after m s) := by
  induction m generalizing s with
  | zero => simp
  | succ m ih => rw [Nat.succ_add, after_succ, after_succ, ih]

theorem events_add {p : Params} (m n : Nat) (s : Engine p) : events (m + n) s = events m s ++ events n (after m s) := by
  induction m generalizing s with
  | zero => simp [events]
  | succ m ih => rw [Nat.succ_add]; simp [events, ih]

theorem noReset_succ {p : Params} {n : Nat} {s : Engine p} (h : noReset (n + 1) s = true) :
    s.now.rst = false ∧ noReset n (advance s) = true := by
  simpa [noReset] using h

/-- What the scheduler writes to the counter: `S - 1` when it removes the queue head, else one less while above 0 (R128 to R132). -/
theorem ssStep_spCnt {p : Params} (i : Inputs) (s : Engine p) :
    (ssStep i s).spCnt.toNat = if (ssStep i s).pop = true then p.spacing - 1 else s.spCnt.toNat - 1 := by
  unfold ssStep
  rcases ssAction_cases i s with h | h | h | h | h
  · rw [h.1]; simpa [ssWrites] using spCnt_countdown h.2
  all_goals simp [h.1, ssWrites, h]

/-- The scheduler removes the queue head exactly in a write start (R133). -/
theorem ssStep_pop {p : Params} (s : Engine p) (hr : s.now.rst = false) : (ssStep s.now s).pop = writeStart s := by
  unfold ssStep writeStart
  rcases ssAction_cases s.now s with h | h | h | h | h
  · have : (s.spCnt.toNat == 0) = false := by simpa using Nat.pos_iff_ne_zero.mp h.2
    simp [h.1, ssWrites, this]
  all_goals simp [h.1, ssWrites, hr, h]

/-- The spacing counter after a non-reset cycle (R128 to R132). -/
theorem advance_spCnt {p : Params} (s : Engine p) (hr : s.now.rst = false) :
    (advance s).spCnt.toNat = if writeStart s = true then p.spacing - 1 else s.spCnt.toNat - 1 := by
  rw [advance_of_run hr, ← ssStep_pop s hr]
  exact ssStep_spCnt s.now s

/-- The queue after a non-reset cycle: the head leaves in a write start, and what CU pushes goes behind (R52, R67). -/
theorem advance_txq {p : Params} (s : Engine p) (hr : s.now.rst = false) :
    (advance s).txq = (if writeStart s = true then s.txq.tail else s.txq) ++ (cuStep s.now s).push.toList := by
  rw [advance_of_run hr, ← ssStep_pop s hr]; rfl

/-- What a byte offered to an open reader with a free output register does (R103, R28). -/
theorem advance_of_offer {p : Params} {s : Engine p} {b : Byte} (h : offers s b = true) (hc : s.rd.closed = false)
    (hv : s.rxf.valid = false) :
    (advance s).rd = (byteRule b s).rd ∧ (advance s).rxf = (byteRule b s).rxf
      ∧ (outputsWith s.now s).evRd = (byteRule b s).event.code := by
  simp only [offers, Bool.and_eq_true, Bool.not_eq_true', beq_iff_eq] at h
  obtain ⟨⟨⟨⟨⟨h1, h2⟩, h3⟩, h4⟩, h5⟩, h6⟩ := h
  have : rdStep s.now s = byteRule b s := by
    rw [rdStep_byte _ _ h1 h5 h4 h3, h6]; simp [rxByteWrites, h2, hc, hv, rdHandshake_of_free]
  refine ⟨?_, ?_, ?_⟩
  · rw [advance_of_run h1]; simp [this]
  · rw [advance_of_run h1]; simp [this]
  · show (evRd _ _).code = _; simp [evRd, h1, this]

/-- An idle cycle with the link up leaves an open reader outside `S_DRAIN` as it is, raises no event, and keeps the output register
free (R103, R122). -/
theorem advance_of_idle {p : Params} {s : Engine p} (h : idles s = true) (hc : s.rd.closed = false) (hd : s.rd.state ≠ .drain)
    (hv : s.rxf.valid = false) :
    (advance s).rd = s.rd ∧ (advance s).rxf = s.rxf ∧ (outputsWith s.now s).evRd = 0 := by
  simp only [idles, Bool.and_eq_true, Bool.not_eq_true'] at h
  obtain ⟨⟨⟨⟨h1, h2⟩, h3⟩, h4⟩, h5⟩ := h
  have : rdStep s.now s = rdNothing s := by
    rw [rdStep_idle _ _ h5 h4 h3]; simp [rxIdleWrites, h2, hc, hd, rdHandshake_of_free, hv]
  refine ⟨?_, ?_, ?_⟩
  · rw [advance_of_run h1]; simp [this, rdNothing]
  · rw [advance_of_run h1]; simp [this, rdNothing]
  · show (evRd _ _).code = _; simp [evRd, h1, this, rdNothing, RdEvent.code]

end Sys2Proof.Machine
end

