-- ==== Sys2Proof/Laws/PerInstr.lean ====
section
/-! SUPPORT. Facts about every instruction as syntax, one lemma per constructor. -/

namespace Sys2Proof.Laws.EncodingPort

/-- The word of a command stands on the command port and is 14 bytes long, that of a receive event on the receive port and is
2 bytes long (R84, R88). -/
def Statement (i : Instr) : Prop :=
  (encode i).port = (if i.isCommand then .command else .receive)
    ∧ (encode i).toBytes.length = if i.isCommand then 14 else 2

theorem nop (a l : Byte) (d : Bytes 11) : Statement (.nop a l d) := ⟨rfl, rfl⟩
theorem build (a l : Byte) (d : Bytes 11) : Statement (.build a l d) := ⟨rfl, rfl⟩
theorem cksum (a l : Byte) (d : Bytes 11) : Statement (.cksum a l d) := ⟨rfl, rfl⟩
theorem send (a l : Byte) (d : Bytes 11) : Statement (.send a l d) := ⟨rfl, rfl⟩
theorem clrst (a l : Byte) (d : Bytes 11) : Statement (.clrst a l d) := ⟨rfl, rfl⟩
theorem rsv5 (a l : Byte) (d : Bytes 11) : Statement (.rsv5 a l d) := ⟨rfl, rfl⟩
theorem rsv67 (op : BitVec 4) (a l : Byte) (d : Bytes 11) : Statement (.rsv67 op a l d) := ⟨rfl, rfl⟩
theorem rsv8f (op : BitVec 4) (a l : Byte) (d : Bytes 11) : Statement (.rsv8f op a l d) := ⟨rfl, rfl⟩
theorem rxErr (b : Byte) (v e : Bool) : Statement (.rxErr b v e) := ⟨rfl, rfl⟩
theorem rxEos (b : Byte) (v : Bool) : Statement (.rxEos b v) := ⟨rfl, rfl⟩
theorem rxByte (b : Byte) : Statement (.rxByte b) := ⟨rfl, rfl⟩
theorem rxIdle (b : Byte) : Statement (.rxIdle b) := ⟨rfl, rfl⟩

end Sys2Proof.Laws.EncodingPort
end

