-- ==== Sys2Proof/Tests/Slice0.lean ====
section
/-! SUPPORT. The model's own tests: the well-formedness checks, decoded words, one-step tests from the vectors of
95_test_vectors.md, and for every statement with hypotheses a state and operands that meet them together. -/

namespace Sys2Proof.Tests

open Sys2Proof.Machine

/-! ### Small states -/

/-- The parameters of the programs of 95_test_vectors.md: `S = 4`, the other values those of this hardware. -/
def vectorParams : Params := { spacing := 4, txqDepth := 4, drainOnError := true, fallbackCksum := .implied }

/-- The DATA field whose first bytes are `l`. -/
def operands (l : List Byte) : Bytes 11 := padBytes 11 l

/-- A row of R93 with one command. -/
def rowOf (i : Instr) : Inputs := portRow (encode i)

/-- A row of R93 that offers the byte `b`. -/
def byteRow (b : Byte) : Inputs := rowOf (.rxByte b)

/-- A PFE in its reset state before the given input rows. -/
def fed (p : Params) (rows : List Inputs) : Engine p := { Engine.reset with env := rows }

/-- The reset state, its reader replaced, before the given input rows. -/
def reading (p : Params) (r : Reader) (rows : List Inputs) : Engine p := { fed p rows with rd := r }

/-- A queue entry with no DATA. -/
def entry (a : Byte) : TxEntry := { addr := a, len := 0, data := Vector.replicate 8 0 }

/-- A state with `n` queued frames before the given input rows. -/
def queued (p : Params) (n : Nat) (rows : List Inputs) : Engine p := { fed p rows with txq := List.replicate n (entry 0x05) }

/-- The same with the spacing counter at `c`. -/
def spaced (p : Params) (n c : Nat) (rows : List Inputs) : Engine p := { queued p n rows with spCnt := BitVec.ofNat _ c }

/-- The received frame of vector RD-1, waiting for the consumer. -/
def waitingFrame : RxFrame := { valid := true, addr := 0x01, len := 0, data := Vector.replicate 8 0 }

/-- A state in which that frame waits. -/
def pending (p : Params) (rows : List Inputs) : Engine p := { fed p rows with rxf := waitingFrame }

/-- This hardware in the given state: its parameters are `Config.params`, whose `S` no test can evaluate. -/
abbrev hw (s : Engine Config.params) : State := { toEngine := s }

/-- The reader in the middle of the frame `0F 05 01 01 EA 04`, in the given state. -/
def midFrame (st : RdState) : Reader :=
  { Reader.reset with state := st, addr := 0x05, len := 1, cnt := 1, data := #v[1, 0, 0, 0, 0, 0, 0, 0] }

/-! ### Well-formedness: each check refuses an ill-formed term -/

theorem test_wf_rsv67_refuses_other_opcodes :
    (Instr.rsv67 0x5 0 0 (operands [])).wellFormed = false ∧ (Instr.rsv67 0x8 0 0 (operands [])).wellFormed = false := by
  decide

theorem test_wf_rsv8f_refuses_lower_opcodes :
    (Instr.rsv8f 0x7 0 0 (operands [])).wellFormed = false ∧ (Instr.rsv8f 0x0 0 0 (operands [])).wellFormed = false := by
  decide

theorem test_wf_accepts_the_covered_opcodes :
    (Instr.rsv67 0x6 0 0 (operands [])).wellFormed = true ∧ (Instr.rsv67 0x7 0 0 (operands [])).wellFormed = true
      ∧ (Instr.rsv8f 0x8 0 0 (operands [])).wellFormed = true ∧ (Instr.rsv8f 0xF 0 0 (operands [])).wellFormed = true := by
  decide

/-! ### Decoding: every constructor by a word written out from R84, R85 and R88 -/

/-- `addr = 0x33`, `len = 5`, all data 09: the NOP of vector CT-2. -/
theorem test_decode_nop :
    decodeCommand 0x090909090909090909090905330 = .nop 0x33 0x05 #v[9, 9, 9, 9, 9, 9, 9, 9, 9, 9, 9] := by decide

/-- The word of vector CD-21. -/
theorem test_decode_build :
    decodeCommand 0x000000080706050403020108401 = .build 0x40 0x08 #v[1, 2, 3, 4, 5, 6, 7, 8, 0, 0, 0] := by decide

/-- The word of vector CD-25. -/
theorem test_decode_cksum :
    decodeCommand 0x000000000000000101050F04002 = .cksum 0x00 0x04 #v[0x0F, 5, 1, 1, 0, 0, 0, 0, 0, 0, 0] := by decide

/-- The second SEND of program P1. -/
theorem test_decode_send :
    decodeCommand 0x000000000000000000341202063 = .send 0x06 0x02 #v[0x12, 0x34, 0, 0, 0, 0, 0, 0, 0, 0, 0] := by decide

/-- The CLRST 0x08 of program P3. -/
theorem test_decode_clrst :
    decodeCommand 0x000000000000000000000800004 = .clrst 0x00 0x00 #v[8, 0, 0, 0, 0, 0, 0, 0, 0, 0, 0] := by decide

/-- `op = 0101`, the last data byte 80. -/
theorem test_decode_rsv5 :
    decodeCommand 0x800000000000000000000000005 = .rsv5 0x00 0x00 #v[0, 0, 0, 0, 0, 0, 0, 0, 0, 0, 0x80] := by decide

/-- `op = 0110` and `op = 0111`. -/
theorem test_decode_rsv67 :
    decodeCommand 0x000000000000000000000000FF6 = .rsv67 0x6 0xFF 0x00 #v[0, 0, 0, 0, 0, 0, 0, 0, 0, 0, 0]
      ∧ decodeCommand 0x0000000000000000000000FF007 = .rsv67 0x7 0x00 0xFF #v[0, 0, 0, 0, 0, 0, 0, 0, 0, 0, 0] := by decide

/-- The word of vector CT-8, and `op = 1000`. -/
theorem test_decode_rsv8f :
    decodeCommand 0x00000000000000000000000000A = .rsv8f 0xA 0x00 0x00 #v[0, 0, 0, 0, 0, 0, 0, 0, 0, 0, 0]
      ∧ decodeCommand 0x000000000000000000000000008 = .rsv8f 0x8 0x00 0x00 #v[0, 0, 0, 0, 0, 0, 0, 0, 0, 0, 0] := by decide

/-- Bit 10 is 1: `rx_err` wins whatever the other bits are. -/
theorem test_decode_rxErr :
    decodeReceive 0b11110100101 = .rxErr 0xA5 true true ∧ decodeReceive 0b10000000000 = .rxErr 0x00 false false := by decide

/-- Bits 10:9 are 01. -/
theorem test_decode_rxEos :
    decodeReceive 0b01100001111 = .rxEos 0x0F true ∧ decodeReceive 0b01000000000 = .rxEos 0x00 false := by decide

/-- Bits 10:8 are 001. -/
theorem test_decode_rxByte :
    decodeReceive 0b00111101010 = .rxByte 0xEA ∧ decodeReceive 0b00100000100 = .rxByte 0x04 := by decide

/-- Bits 10:8 are 000. -/
theorem test_decode_rxIdle :
    decodeReceive 0b00000000000 = .rxIdle 0x00 ∧ decodeReceive 0b00011111111 = .rxIdle 0xFF := by decide

theorem test_decode_bytes_rejects_by_name :
    decode .receive [0x0F] = .error .wrongLength ∧ decode .receive [0x0F, 0x08] = .error .paddingNotZero
      ∧ decode .command [0x00, 0x00] = .error .wrongLength := by decide

theorem test_decodeTableWord :
    decodeTableWord 8 0x05 = some (.rsv5 0 0 (operands [])) ∧ decodeTableWord 16 0x10F = some (.rxByte 0x0F) := by decide

/-! ### One step of each instruction, from the vectors -/

/-- `res_op`, `res_code`, `res_cks`, `res_frame[0..res_flen)` and the sticky bits. -/
structure Shown where
  op : BitVec 4
  code : BitVec 2
  cks : Byte
  frame : List Byte
  st : BitVec 8
  deriving DecidableEq, Repr

/-- What one cycle from reset with the command `i` presented leaves. -/
def resultOf (i : Instr) : Option Shown :=
  match step (hw (fed _ [rowOf i])) with
  | .next t => some ⟨t.res.op, t.res.code.code, t.res.cks, t.res.frame.toList.take t.res.flen.toNat, t.st⟩
  | _ => none

/-- CT-1. -/
theorem test_nop : resultOf (.nop 0x33 0x05 (operands [9, 9])) = some ⟨0x0, 0, 0x00, [], 0x00⟩ := by decide

/-- CD-19 and CD-20. -/
theorem test_build :
    resultOf (.build 0x05 0x01 (operands [1])) = some ⟨0x1, 0, 0xEA, [0x0F, 5, 1, 1, 0xEA, 4], 0x00⟩
      ∧ resultOf (.build 0xF1 0x00 (operands [])) = some ⟨0x1, 0, 0x00, [0x0F, 0xF1, 0, 0, 4], 0x00⟩ := by decide

/-- CD-22. -/
theorem test_build_length_9 :
    resultOf (.build 0x05 0x09 (Vector.replicate 11 1)) = some ⟨0x1, 1, 0x00, [], 0x80⟩ := by decide

/-- CD-25 and CD-26. -/
theorem test_cksum :
    resultOf (.cksum 0x00 0x04 (operands [0x0F, 5, 1, 1])) = some ⟨0x2, 0, 0xEA, [], 0x00⟩
      ∧ resultOf (.cksum 0x00 0x0B (Vector.replicate 11 0xFF)) = some ⟨0x2, 0, 0x0B, [], 0x00⟩ := by decide

/-- CD-27. -/
theorem test_cksum_length_12 :
    resultOf (.cksum 0x00 0x0C (Vector.replicate 11 0xFF)) = some ⟨0x2, 2, 0x00, [], 0x80⟩ := by decide

/-- SS-1: the frame is queued. -/
theorem test_send :
    resultOf (.send 0x05 0x01 (operands [1])) = some ⟨0x3, 0, 0xEA, [0x0F, 5, 1, 1, 0xEA, 4], 0x00⟩
      ∧ ((advance (fed vectorParams [rowOf (.send 0x05 0x01 (operands [1]))])).txq.map TxEntry.frame)
          = [[0x0F, 5, 1, 1, 0xEA, 4]] := by decide

/-- SS-10: a SEND presented to a full queue is held, although the pop of the same cycle frees an entry. -/
theorem test_send_full :
    let s := queued vectorParams 4 [rowOf (.send 0x05 0x00 (operands []))]
    (outputsWith s.now s).cmdReady = false ∧ (advance s).txq.length = 3
      ∧ (advance s).res.valid = false := by decide

/-- CT-6: the last cycle, `CLRST 0x01` at `st = 0x07`. -/
theorem test_clrst :
    (advance { fed vectorParams [rowOf (.clrst 0 0 (operands [0x01]))] with st := 0x07 }).st = 0x06 := by decide

/-- CT-7: an event of the cycle wins over the clear. -/
theorem test_clrst_event_wins :
    let row : Inputs := { rowOf (.clrst 0 0 (operands [0xFF])) with rxWord := 0x144 }
    (advance { fed vectorParams [row] with st := 0x01 }).st = 0x01 := by decide

/-- CT-4, CT-5 and the middle row of R85. -/
theorem test_reserved :
    resultOf (.rsv5 0 0 (operands [])) = some ⟨0x5, 3, 0x00, [], 0x80⟩
      ∧ resultOf (.rsv67 0x7 0 0 (operands [])) = some ⟨0x7, 3, 0x00, [], 0x80⟩
      ∧ resultOf (.rsv8f 0xF 0 0 (operands [])) = some ⟨0xF, 3, 0x00, [], 0x80⟩ := by decide

/-- RD-16: `rx_err` wins, both sticky bits are set. -/
theorem test_rxErr :
    let t := advance (reading vectorParams { Reader.reset with state := .addr } [rowOf (.rxErr 0 false true)])
    t.rd.state = .stx ∧ t.rd.closed = true ∧ t.st = 0x30 := by decide

/-- RD-17: a byte with EOS is discarded. -/
theorem test_rxEos :
    let t := advance (reading vectorParams { Reader.reset with state := .addr } [rowOf (.rxEos 0x05 true)])
    t.rd = { Reader.reset with closed := true } ∧ t.st = 0x10 := by decide

/-- The example of R116. -/
theorem test_rxByte_emits :
    let t := advance (reading vectorParams (midFrame .etx) [byteRow 0x04])
    t.rxf.valid = true ∧ t.rxf.frame = [0x0F, 5, 1, 1, 0xEA, 4] ∧ t.rd = Reader.reset := by decide

/-- The example of R115. -/
theorem test_rxByte_mismatch :
    let r : Reader :=
      { Reader.reset with state := .cks, addr := 0x05, len := 2, cnt := 2, data := #v[0x11, 0x22, 0, 0, 0, 0, 0, 0] }
    let t := advance (reading vectorParams r [byteRow 0xB8])
    t.rd = { Reader.reset with state := .drain } ∧ t.st = 0x04 := by decide

/-- RD-9, the last cycle: the drain ends. -/
theorem test_rxIdle : (advance (reading vectorParams { Reader.reset with state := .drain } [rowOf (.rxIdle 0)])).rd = Reader.reset := by
  decide

/-- RD-8: the fallback checksum with RAW. -/
theorem test_raw_fallback :
    let p := { vectorParams with fallbackCksum := FallbackCksum.raw }
    (after 5 (fed p (([0x0F, 5, 0xFF, 0xED, 4] : List Byte).map byteRow))).rxf.frame = [0x0F, 5, 1, 0xFF, 0xEC, 4] := by decide

/-- SS-6: a drop counts as a write start and sets TX_FAIL. -/
theorem test_drop :
    let s := queued vectorParams 2 [{ Inputs.idleRow with linkUp := false }]
    (advance s).txq.length = 1 ∧ (advance s).spCnt = 3 ∧ (advance s).st = 0x40 := by decide

/-! ### Witnesses: every statement's hypotheses are met together -/

/-- A quiet reader, whatever waits in the output register and the queue. -/
theorem quiet_invariant {p : Params} (s : Engine p) (hr : s.rd = Reader.reset ∨ s.rd = { Reader.reset with closed := true })
    (hx : s.rxf.len.toNat ≤ 8) (hq : s.txq.length ≤ p.txqDepth) (hs : s.spCnt.toNat ≤ p.spacing - 1) : Invariant s := by
  rcases hr with h | h <;> constructor <;> simp [h, Reader.reset, hx, hq, hs]

theorem quiet_zeroParts {p : Params} (s : Engine p) (hr : s.rd = Reader.reset) (hx : zeroFrom s.rxf.len.toNat s.rxf.data)
    (hq : ∀ e ∈ s.txq, e.len.toNat ≤ 8 ∧ zeroFrom e.len.toNat e.data) : ZeroParts s := by
  constructor <;> simp_all [Reader.reset, zeroFrom]

theorem test_witness_wellFormed_commands :
    (Instr.nop 0 0 (operands [])).wellFormed = true ∧ (Instr.nop 0 0 (operands [])).isCommand = true
      ∧ (Instr.rsv8f 0xF 0xFF 0xFF (operands [])).wellFormed = true ∧ (Instr.rsv8f 0xF 0xFF 0xFF (operands [])).isCommand = true
      ∧ (Instr.rxErr 0xFF true true).wellFormed = true ∧ (Instr.rxErr 0xFF true true).isCommand = false
      ∧ (Instr.rxIdle 0).isCommand = false := by decide

theorem test_witness_byte_decoder : decode .receive [0x0F, 0x01] = .ok (.rxByte 0x0F) := by decide

/-- One word for each clause of the opcode map, the ends of the reserved ranges among them. -/
theorem test_witness_opcode_map :
    (([0x0, 0x1, 0x2, 0x3, 0x4, 0x5, 0x6, 0x7, 0x8, 0xF] : List CmdWord).map fun w => w.extractLsb' 0 4)
      = [0x0, 0x1, 0x2, 0x3, 0x4, 0x5, 0x6, 0x7, 0x8, 0xF] := by decide

theorem test_witness_receive_classes :
    (0x400 : RxWord).getLsbD 10 = true ∧ ((0x3FF : RxWord).getLsbD 10 = false ∧ (0x3FF : RxWord).getLsbD 9 = true)
      ∧ ((0x1FF : RxWord).getLsbD 10 = false ∧ (0x1FF : RxWord).getLsbD 9 = false ∧ (0x1FF : RxWord).getLsbD 8 = true)
      ∧ ((0x0FF : RxWord).getLsbD 10 = false ∧ (0x0FF : RxWord).getLsbD 9 = false ∧ (0x0FF : RxWord).getLsbD 8 = false) := by
  decide

/-- A non-reset cycle with a command and one without. -/
theorem test_witness_non_reset_cycles :
    let s := hw (fed _ [rowOf (.nop 0 0 (operands []))])
    let t := hw (fed _ [byteRow 0x0F])
    s.now.rst = false ∧ s.now.cmdValid = true ∧ t.now.rst = false ∧ t.now.cmdValid = false := by decide

theorem test_witness_reset_cycle : (hw (fed _ [{ Inputs.idleRow with rst := true }])).now.rst = true := by decide

/-- A next state: what the statements about `step s = .next t` assume. -/
theorem test_witness_step_next :
    let s := hw (fed _ [rowOf (.nop 0 0 (operands []))])
    s.now.rst = false ∧ ∃ t, step s = .next t ∧ t.res.valid = true := ⟨by decide, _, rfl, by decide⟩

theorem test_witness_step_next_without_command :
    let s := hw (fed _ [byteRow 0x33])
    s.now.rst = false ∧ ∃ t, step s = .next t ∧ t.res.valid = false := ⟨by decide, _, rfl, by decide⟩

theorem test_witness_step_next_with_error :
    let s := hw (fed _ [rowOf (.rsv5 0 0 (operands []))])
    s.now.rst = false ∧ ∃ t, step s = .next t ∧ t.res.valid = true ∧ t.res.code ≠ .ok := ⟨by decide, _, rfl, by decide⟩

theorem test_witness_exec_next :
    ((Instr.clrst 0 0 (operands [1])).isCommand = true ∧ ∃ t, exec (.clrst 0 0 (operands [1])) State.reset = .next t)
      ∧ ((Instr.send 0 0 (operands [])).isCommand = true ∧ ∃ t, exec (.send 0 0 (operands [])) State.reset = .next t)
      ∧ ((Instr.rxByte 0x33).isCommand = false ∧ ∃ t, exec (.rxByte 0x33) (hw (fed _ [byteRow 0x33])) = .next t) :=
  ⟨⟨rfl, _, rfl⟩, ⟨rfl, _, rfl⟩, rfl, _, rfl⟩

theorem quiet_queue_zeroParts (p : Params) (n : Nat) (rows : List Inputs) : ZeroParts (queued p n rows) :=
  quiet_zeroParts _ rfl (by simp [queued, fed, Engine.reset, RxFrame.reset, zeroFrom]) (by simp [queued, entry, zeroFrom])

theorem test_witness_invariant :
    Invariant (hw (pending _ [])).toEngine ∧ ZeroParts (hw (pending _ [])).toEngine
      ∧ Invariant (hw (queued _ 4 [])).toEngine ∧ ZeroParts (hw (queued _ 4 [])).toEngine :=
  ⟨quiet_invariant _ (.inl rfl) (by decide) (by decide) (Nat.zero_le _),
    quiet_zeroParts _ rfl (by simp [pending, fed, waitingFrame, zeroFrom]) (by simp [pending, fed, Engine.reset]),
    quiet_invariant _ (.inl rfl) (by decide) (by decide) (Nat.zero_le _), quiet_queue_zeroParts _ _ _⟩

/-- Legal parameters at both ends of `P_TXQ_DEPTH` and at the least `S`, with a full queue and the counter at its end. -/
theorem test_witness_legal_invariant :
    let p : Params := { spacing := 1, txqDepth := 15, drainOnError := false, fallbackCksum := .raw }
    let q : Params := { spacing := 4, txqDepth := 1, drainOnError := true, fallbackCksum := .implied }
    (p.legal ∧ Invariant (queued p 15 []) ∧ ZeroParts (queued p 15 []))
      ∧ (q.legal ∧ Invariant (spaced q 1 3 []) ∧ ZeroParts (spaced q 1 3 [])) := by
  refine ⟨⟨⟨by decide, by decide, by decide⟩, quiet_invariant _ (.inl rfl) (by decide) (by decide) (by decide),
    quiet_queue_zeroParts _ _ _⟩,
    ⟨by decide, by decide, by decide⟩, quiet_invariant _ (.inl rfl) (by decide) (by decide) (by decide),
    quiet_zeroParts _ rfl (by simp [spaced, queued, fed, Engine.reset, RxFrame.reset, zeroFrom])
      (by simp [spaced, queued, entry, zeroFrom])⟩

/-- R44's clauses alone are not kept by every step: `S_DRAIN` with `rd_addr` not 0 satisfies them, and the idle cycle that ends the
drain leaves `S_STX` with that `rd_addr` (log 18). -/
theorem test_drain_address_is_needed :
    let s := reading vectorParams { Reader.reset with state := .drain, addr := 0x01 } [Inputs.idleRow]
    Invariant s ∧ ¬ Invariant (advance s) := by
  refine ⟨by constructor <;> simp [reading, fed, Engine.reset, Reader.reset, RxFrame.reset], fun h => ?_⟩
  have := h.addrCleared (by decide)
  revert this
  decide

/-- The lengths of the assembler's domain and of each command's, at both ends of every clause. -/
theorem test_witness_lengths :
    ([] : List Byte).length ≤ 8 ∧ (List.replicate 8 (0xFF : Byte)).length ≤ 8
      ∧ (0x00 : Byte).toNat ≤ 8 ∧ (0x08 : Byte).toNat ≤ 8 ∧ 8 < (0x09 : Byte).toNat ∧ 8 < (0xFF : Byte).toNat
      ∧ (0x0B : Byte).toNat ≤ 11 ∧ 11 < (0x0C : Byte).toNat := by decide

theorem test_witness_send : State.reset.txq.length ≠ 4 ∧ (hw (queued _ 3 [])).txq.length ≠ 4 := by decide

theorem test_witness_full_queue :
    let s := hw (queued _ 4 [rowOf (.send 0x05 0x00 (operands []))])
    s.txq.length = 4 ∧ s.now.cmdWord = packCommand 0x3 0x05 0x00 (operands []) := by decide

theorem test_witness_reserved_ready :
    let s := hw (fed _ [rowOf (.rsv5 0 0 (operands []))])
    let t := hw (fed _ [rowOf (.rsv8f 0xF 0 0 (operands []))])
    s.now.rst = false ∧ 5 ≤ s.now.cmdOp.toNat ∧ 5 ≤ t.now.cmdOp.toNat := by decide

/-- Operands that differ only where they are not read: CLRST beyond `data[0]`, CKSUM and BUILD beyond `len`, or in full when the
length is out of range. -/
theorem test_witness_unread_operands :
    (operands [1, 2])[0] = (operands [1, 3])[0] ∧ operands [1, 2] ≠ operands [1, 3]
      ∧ (∀ k : Fin 11, k.val < (0x01 : Byte).toNat → (0x01 : Byte).toNat ≤ 11 → (operands [1, 2])[k.val] = (operands [1, 3])[k.val])
      ∧ (∀ k : Fin 11, k.val < (0x01 : Byte).toNat → (0x01 : Byte).toNat ≤ 8 → (operands [1, 2])[k.val] = (operands [1, 3])[k.val])
      ∧ 8 < (0x09 : Byte).toNat := by decide

/-- Link down, for every event class. -/
theorem test_witness_link_down :
    (hw (fed _ [{ byteRow 0x0F with linkUp := false }])).now.linkUp = false ∧ (Instr.rxByte 0x0F).isCommand = false
      ∧ (Instr.rxErr 0 false false).isCommand = false ∧ (Instr.rxEos 0 false).isCommand = false
      ∧ (Instr.rxIdle 0).isCommand = false := by decide

theorem test_witness_stream_end :
    let s := hw (fed _ [rowOf (.rxErr 0 false true)])
    let t := hw (fed _ [rowOf (.rxEos 0 true)])
    s.now.linkUp = true ∧ s.now.rst = false ∧ s.now.rxErr = true
      ∧ t.now.linkUp = true ∧ t.now.rst = false ∧ t.now.rxErr = false ∧ t.now.rxEos = true := by decide

theorem test_witness_closed :
    let s := hw (reading _ { Reader.reset with closed := true } [byteRow 0x0F])
    s.now.linkUp = true ∧ s.rd.closed = true ∧ s.now.rxErr = false ∧ s.now.rxEos = false := by decide

theorem test_witness_drain :
    let s := hw (reading _ { Reader.reset with state := .drain } [byteRow 0x0F])
    s.now.linkUp = true ∧ s.rd.closed = false ∧ s.rd.state = .drain ∧ s.rxf.valid = false ∧ s.now.rst = false
      ∧ s.now.rxErr = false ∧ s.now.rxEos = false := by decide

theorem test_witness_no_transfer :
    let s := hw (pending _ [byteRow 0x0F])
    s.now.linkUp = true ∧ s.rd.closed = false ∧ s.rd.state ≠ .drain ∧ s.rxf.valid = true := by decide

/-- The byte rules: an open reader with a free output register in each state, the byte offered. -/
theorem test_witness_byte_rules :
    ∀ st ∈ [RdState.stx, .addr, .len, .data, .cks, .etx],
      let s := hw (reading _ { Reader.reset with state := st, len := 8, cnt := 7 } [byteRow 0x0F])
      s.now.linkUp = true ∧ s.rd.closed = false ∧ s.rxf.valid = false ∧ s.rd.state = st ∧ offers s.toEngine 0x0F = true
        ∧ s.rd.cnt.toNat < 8 ∧ s.rd.len.toNat ≤ 8 := by decide

/-- `S_DATA`: the last DATA byte, and one before it. -/
theorem test_witness_data_bytes :
    (0 : BitVec 4).toNat + 1 = (1 : BitVec 4).toNat ∧ (7 : BitVec 4).toNat + 1 = (8 : BitVec 4).toNat
      ∧ (6 : BitVec 4).toNat + 1 ≠ (8 : BitVec 4).toNat := by decide

/-- `S_CKS`: the example of R114, and the byte one above. -/
theorem test_witness_checksum :
    (sumBytes [0x0F, 0x05, 0x01, 0x01] + (0xEA : Byte).toNat) % 256 = 0
      ∧ (sumBytes [0x0F, 0x05, 0x01, 0x01] + (0xEB : Byte).toNat) % 256 ≠ 0 := by decide

theorem test_witness_waiting_frame :
    let s := hw (pending _ [byteRow 0x0F])
    s.now.rst = false ∧ s.rxf.valid = true ∧ ∃ t, step s = .next t := ⟨by decide, by decide, _, rfl⟩

theorem test_witness_closed_reader :
    let s := hw (reading _ { Reader.reset with closed := true } [byteRow 0x0F])
    Invariant s.toEngine ∧ s.now.rst = false ∧ s.rd.closed = true ∧ s.now.linkUp = true ∧ ∃ t, step s = .next t :=
  ⟨quiet_invariant _ (.inr rfl) (by decide) (by decide) (Nat.zero_le _), by decide, by decide, by decide, _, rfl⟩

/-- One cycle for each code of `ev_rd`, in the order 1 to 7. -/
theorem test_witness_reader_events :
    ([reading _ Reader.reset [byteRow 0x04],
      reading _ { Reader.reset with state := .len } [byteRow 0x09],
      reading _ (midFrame .cks) [byteRow 0xEB],
      reading _ (midFrame .etx) [byteRow 0x0F],
      fed _ [rowOf (.rxEos 0 false)],
      fed _ [rowOf (.rxErr 0 false false)],
      reading _ (midFrame .etx) [byteRow 0x04]].map fun s => (hw s).outputs.evRd) = [1, 2, 3, 4, 5, 6, 7] := by decide

/-- The counter of this hardware can hold 1, whatever `P_CLK_HZ` is: `W_SP` is at least 1. -/
theorem counter_can_run : 0 < (BitVec.ofNat Config.params.spWidth 1).toNat := by
  have : 1 < 2 ^ Config.params.spWidth := Nat.one_lt_two_pow (by simp [Params.spWidth])
  rw [BitVec.toNat_ofNat, Nat.mod_eq_of_lt this]; decide

/-- A state for each action of R127, with the next state that the statement assumes. -/
theorem test_witness_scheduler_actions :
    (let s := hw (spaced _ 1 1 [Inputs.idleRow]);
      s.now.rst = false ∧ 0 < s.spCnt.toNat ∧ ∃ t, step s = .next t)
    ∧ (let s := hw (fed _ [Inputs.idleRow]);
      s.now.rst = false ∧ s.spCnt.toNat = 0 ∧ s.txq = [] ∧ ∃ t, step s = .next t)
    ∧ ∀ row ∈ [{ Inputs.idleRow with linkUp := false }, Inputs.idleRow, { Inputs.idleRow with txReady := false }],
      let s := hw (queued _ 1 [row])
      s.now.rst = false ∧ s.spCnt.toNat = 0 ∧ s.txq = [entry 0x05] ∧ s.now.linkUp = row.linkUp
        ∧ s.now.txReady = row.txReady ∧ ∃ t, step s = .next t := by
  refine ⟨⟨rfl, counter_can_run, _, rfl⟩, ⟨rfl, by decide, rfl, _, rfl⟩, fun row h => ?_⟩
  simp only [List.mem_cons, List.not_mem_nil, or_false] at h
  rcases h with rfl | rfl | rfl <;> exact ⟨rfl, by decide, rfl, rfl, rfl, _, rfl⟩

/-- Two write starts exactly `S` cycles apart, as in vector SS-2; `S = 4` is what a 60 Hz clock gives. -/
theorem test_witness_write_starts :
    let s := queued vectorParams 2 (List.replicate 5 Inputs.idleRow)
    noReset 4 s = true ∧ writeStart s = true ∧ writeStart (after 4 s) = true
      ∧ vectorParams.spacing = Config.spacingCycles 60 60 := by decide

theorem test_witness_deferred_frame :
    let s := queued vectorParams 2 (List.replicate 5 Inputs.idleRow)
    1 ≤ vectorParams.spacing ∧ noReset 5 s = true ∧ writeStart s = true ∧ (after 4 s).txq ≠ []
      ∧ (after 4 s).now.linkUp = true ∧ (after 4 s).now.txReady = true := by decide

/-- SS-1: a frame submitted to an empty queue. -/
theorem test_witness_immediate_frame :
    let s := fed vectorParams [rowOf (.send 0x05 0x01 (operands [1])), Inputs.idleRow]
    noReset 2 s = true ∧ s.txq = [] ∧ acceptedEntry s ≠ [] ∧ (after 1 s).spCnt.toNat = 0
      ∧ (after 1 s).now.linkUp = true ∧ (after 1 s).now.txReady = true := by decide

/-- The second of two queued frames, `n` at the bound `(S - 1) + k * S + H` with one hold cycle. -/
theorem test_witness_waiting_time :
    let s := queued vectorParams 2 ({ Inputs.idleRow with txReady := false } :: List.replicate 8 Inputs.idleRow)
    1 ≤ vectorParams.spacing ∧ s.spCnt.toNat ≤ vectorParams.spacing - 1 ∧ noReset 5 s = true ∧ 1 < s.txq.length
      ∧ countCycles writeStart 5 s ≤ 1 ∧ countCycles holdCycle 5 s = 1 := by decide

/-- The queue of the second of two frames with the counter at its end: the bound is met exactly. -/
theorem test_witness_waiting_time_bound :
    let s := spaced vectorParams 2 3 (List.replicate 8 Inputs.idleRow)
    s.spCnt.toNat ≤ vectorParams.spacing - 1 ∧ noReset 7 s = true ∧ countCycles writeStart 7 s ≤ 1 ∧ 7 = (4 - 1) + 1 * 4 + 0 := by decide

theorem test_witness_fifo :
    let s := queued vectorParams 2 (List.replicate 5 Inputs.idleRow)
    noReset 5 s = true ∧ (departed 5 s).length = 2 := by decide

/-- Two cycles that agree on one path and differ on the other. -/
theorem test_witness_independence :
    let i := byteRow 0x0F
    let j : Inputs := { byteRow 0x0F with cmdValid := true, txReady := false }
    let k : Inputs := { byteRow 0x0F with rxWord := 0, rxfReady := false }
    i.rst = j.rst ∧ i.linkUp = j.linkUp ∧ i.rxWord = j.rxWord ∧ i.rxfReady = j.rxfReady ∧ i ≠ j
      ∧ i.rst = k.rst ∧ i.linkUp = k.linkUp ∧ i.cmdValid = k.cmdValid ∧ i.cmdWord = k.cmdWord ∧ i.txReady = k.txReady ∧ i ≠ k := by
  decide

/-- A full and an empty queue, in every reader state. -/
theorem test_witness_status :
    (hw (queued _ 15 [])).txq.length ≤ 15 ∧ (hw (queued _ 0 [])).txq.length ≤ 15
      ∧ ∀ st ∈ [RdState.stx, .addr, .len, .data, .cks, .etx, .drain],
        (hw (reading _ { Reader.reset with state := st } [])).rd.state = st
          ∧ (hw (reading _ { Reader.reset with state := st } [])).txq.length ≤ 15 := by decide

/-- Reset state before any rows, for every parameter set. -/
theorem fed_invariant (p : Params) (rows : List Inputs) : Invariant (fed p rows) :=
  quiet_invariant _ (.inl rfl) (by show 0 ≤ 8; decide) (Nat.zero_le _) (by simp [fed, Engine.reset])

/-- The rows of a script: a byte offered, or an idle cycle. -/
def scriptRows (script : List (Option Byte)) : List Inputs :=
  script.map fun | some b => byteRow b | none => Inputs.idleRow

/-- RD-1 and RD-2: the shortest and the longest frame; the shortest without a gap and with idle cycles before its first byte and
between its bytes. -/
theorem test_witness_round_trip :
    (let script := (assemble 0x40 [1, 2, 3, 4, 5, 6, 7, 8]).map some;
      let s := fed vectorParams (scriptRows script);
      ([1, 2, 3, 4, 5, 6, 7, 8] : List Byte).length ≤ 8 ∧ Invariant s ∧ s.rd.state = .stx ∧ s.rd.closed = false ∧ s.rxf.valid = false
        ∧ scriptOf script (assemble 0x40 [1, 2, 3, 4, 5, 6, 7, 8]) ∧ carries script s = true)
    ∧ (let script := [some 0x0F, some 0x01, some 0x00, some 0xF0, some 0x04];
      let s := fed vectorParams (scriptRows script);
      Invariant s ∧ scriptOf script (assemble 0x01 []) ∧ carries script s = true)
    ∧ (let script := [none, some 0x0F, some 0x01, none, none, some 0x00, some 0xF0, none, some 0x04];
      let s := fed vectorParams (scriptRows script);
      Invariant s ∧ scriptOf script (assemble 0x01 []) ∧ carries script s = true) := by
  refine ⟨⟨by decide, fed_invariant _ _, rfl, rfl, rfl, ⟨by decide, by decide⟩, by decide⟩,
    ⟨fed_invariant _ _, ⟨by decide, by decide⟩, by decide⟩, fed_invariant _ _, ⟨by decide, by decide⟩, by decide⟩

/-- RD-6 (IMPLIED, the least fallback byte), with an idle cycle, and RD-8 (RAW, the largest). -/
theorem test_witness_fallback :
    let raw := { vectorParams with fallbackCksum := FallbackCksum.raw }
    (let script := [some 0x0F, some 0x05, none, some 0x09, some 0xE2, some 0x04];
      let s := fed vectorParams (scriptRows script);
      8 < (0x09 : Byte).toNat ∧ Invariant s ∧ s.rd.state = .stx ∧ s.rd.closed = false ∧ s.rxf.valid = false
        ∧ scriptOf script [0x0F, 0x05, 0x09, cks8 [0x0F, 0x05, 0x01, 0x09], 0x04] ∧ carries script s = true)
    ∧ (let script := [some 0x0F, some 0x05, some 0xFF, some 0xED, some 0x04];
      let s := fed raw (scriptRows script);
      Invariant s ∧ scriptOf script [0x0F, 0x05, 0xFF, cks8 [0x0F, 0x05, 0xFF], 0x04] ∧ carries script s = true) := by
  refine ⟨⟨by decide, fed_invariant _ _, rfl, rfl, rfl, ⟨by decide, by decide⟩, by decide⟩,
    fed_invariant _ _, ⟨by decide, by decide⟩, by decide⟩

/-- RD-5: a frame whose DATA holds the values of STX and ETX, with an idle cycle before its last DATA byte. -/
theorem test_witness_emitted_frame :
    let script := [some 0x0F, some 0x05, some 0x02, some 0x0F, none, some 0x04, some 0xD7, some 0x04]
    let s := fed vectorParams (scriptRows script)
    Invariant s ∧ s.rd.state = .stx ∧ s.rd.closed = false ∧ s.rxf.valid = false ∧ carries script s = true
      ∧ events script.length s = List.replicate (script.length - 1) 0 ++ [7] := ⟨fed_invariant _ _, by decide⟩

/-- The longest way back: `S_ADDR` and the 12 bytes that follow STX in a frame with eight DATA bytes. -/
theorem test_witness_recovery :
    let s := reading vectorParams { Reader.reset with state := .addr } (((assemble 0x40 [1, 2, 3, 4, 5, 6, 7, 8]).drop 1).map byteRow)
    Invariant s ∧ s.rd.state ≠ .stx ∧ s.rd.state ≠ .drain ∧ 12 ≤ countCycles byteTransfers 12 s := by
  refine ⟨by constructor <;> simp [reading, fed, Engine.reset, Reader.reset, RxFrame.reset], by decide, by decide, by decide⟩

/-- RD-9 and RD-11 with bytes that follow without a gap, the drain on and off, and the idle cycle that ends it. -/
theorem test_witness_violation :
    let off := { vectorParams with drainOnError := false }
    let rows (b : Byte) := ([b, 0x04, 0x0F] : List Byte).map byteRow ++ [Inputs.idleRow]
    let s (p : Params) := reading p (midFrame .cks) (rows 0xEB)
    let u := reading vectorParams (midFrame .etx) (rows 0x05)
    let t := after 3 (s vectorParams)
    (∀ p ∈ [vectorParams, off], (s p).rd.closed = false ∧ (s p).rxf.valid = false ∧ (s p).rd.state = .cks
      ∧ 0xEB ≠ expectedCksum p (s p).rd ∧ carries [some 0xEB, some 0x04, some 0x0F] (s p) = true)
    ∧ (u.rd.closed = false ∧ u.rxf.valid = false ∧ u.rd.state = .etx ∧ carries [some 0x05, some 0x04, some 0x0F] u = true)
    ∧ (t.now.rst = false ∧ t.now.linkUp = true ∧ t.now.rxErr = false ∧ t.now.rxEos = false ∧ t.now.rxValid = false) := by decide

theorem test_witness_partial_frame :
    let s := reading vectorParams (midFrame .cks) (List.replicate 3 Inputs.idleRow)
    s.rd.state ≠ .drain
      ∧ ∀ k, k < 3 → (after k s).now.rst = false ∧ (after k s).now.linkUp = true
        ∧ (after k s).now.rxErr = false ∧ (after k s).now.rxEos = false
        ∧ (after k s).now.rxValid = false := by decide

end Sys2Proof.Tests
end

section
/-! PROOFS. The clock of 00_scope.md: the number of cycles of the minimum spacing (R11), and a machine that never stops (R21). -/

namespace Sys2Proof.Proofs.Scope

open Sys2Proof.Machine

/-! ### The spacing in cycles (R11) -/

/-- `n` cycles of a clock of `hz` hertz last at least `ms` milliseconds exactly when `n` reaches the ceiling of R11. -/
theorem spacingCycles_le_iff (ms hz n : Nat) : Config.spacingCycles ms hz ≤ n ↔ ms * hz ≤ 1000 * n := by
  unfold Config.spacingCycles
  omega

/-- `n` cycles of this hardware's clock last at least `P_MIN_SPACING_MS` = 60 ms exactly when `n` reaches `S` (R9, R11). -/
theorem params_spacing_le_iff (n : Nat) : Config.params.spacing ≤ n ↔ 60 * Config.clkHz.val ≤ 1000 * n := by
  have hspacing : Config.params.spacing = Config.spacingCycles Config.minSpacingMs Config.clkHz.val := rfl
  rw [hspacing, spacingCycles_le_iff, Config.minSpacingMs]

/-- The counter's largest value `S - 1` fits `W_SP` bits: it is the load value's (R41). -/
theorem spacing_pred_lt (p : Params) : p.spacing - 1 < 2 ^ p.spWidth := spLoad_toNat p ▸ (spLoad p).isLt

/-- Settles O45: `S` is the ceiling of R11, and a clock of at least 1 Hz needs at least one cycle. -/
theorem spacingCyclesLastSixtyMilliseconds : Obligations.SpacingCyclesLastSixtyMilliseconds := by
  have hpos : 1 ≤ Config.params.spacing := by
    have hzero := params_spacing_le_iff 0
    have hz := Config.clkHz.pos
    omega
  have hpred : ¬ Config.params.spacing ≤ Config.params.spacing - 1 := by omega
  exact ⟨hpos, (params_spacing_le_iff _).mp le_rfl, Nat.lt_of_not_le (mt (params_spacing_le_iff _).mpr hpred),
    spacing_pred_lt _⟩

/-! ### Runs of the machine (R21, R48) -/

/-- RD's receive event after CU's command does what RD's step on the start-of-cycle state does: CU writes nothing RD reads (R50). -/
theorem runReceive_applyCu (s : State) (w : CuWrites) (hr : s.now.rst = false) :
    runReceive { toEngine := applyCu s.toEngine w }
      = .next { toEngine := applyRd (applyCu s.toEngine w) (rdStep s.now s.toEngine) } :=
  exec_decodeReceive { toEngine := applyCu s.toEngine w } hr

/-- One step is one clock cycle of the three units, whatever the state and its inputs are. -/
theorem step_eq_advance (s : State) : step s = .next { toEngine := advance s.toEngine } := by
  unfold step runCycle
  cases hr : s.now.rst with
  | true => rw [if_pos rfl, advance_of_reset hr]
  | false =>
    rw [if_neg Bool.false_ne_true, runCommand_eq s hr, advance_of_run hr]
    simp only [andThen, runReceive_applyCu s _ hr, endCycle_eq]

/-- A run whose first step has a next state goes on from that state. -/
theorem run_succ_of_next {M : Host.Core} {s t : M.State} (h : M.step s = .next t) (n : Nat) : M.run (n + 1) s = M.run n t := by
  rw [Host.Core.run, h]

/-- Settles O10, by induction on the number of steps: every step has a next state. -/
theorem runsNeverStop : Obligations.RunsNeverStop := by
  unfold Obligations.RunsNeverStop
  intro n
  induction n with
  | zero => exact fun s => rfl
  | succ n ih =>
    intro s
    exact (run_succ_of_next (M := core) (step_eq_advance s) n).trans (ih _)

end Sys2Proof.Proofs.Scope
end

section
/-! PROOFS. The state of 10_state.md: what a command and a receive event write and leave alone (R50), the step as the concurrent
cycle (R48), the invariants of R44, and the ports and STATUS (R26 to R31, R46). -/

namespace Sys2Proof.Proofs.State

open Sys2Proof.Machine

/-! ### The step (R48) -/

/-- Settles O9: a step advances the state by one concurrent cycle over its own input row. -/
theorem stepIsTheConcurrentCycle : Obligations.StepIsTheConcurrentCycle := Scope.step_eq_advance

/-- The inputs of a cycle are read from the row fields alone. -/
theorem now_congr {p : Params} {s t : Engine p} (henv : t.env = s.env) (hdrawn : t.drawn = s.drawn) : t.now = s.now := by
  rw [Engine.now, Engine.now, henv, hdrawn]

/-- CU's command does not change the receive event that follows it in the cycle. -/
theorem runReceive_of_exec {c : Instr} {s t : State} (h : exec c s = .next t) :
    runReceive t = exec (decodeReceive s.now.rxWord) t := by
  obtain ⟨henv, hdrawn, -⟩ := exec_keeps_rows c s t h
  rw [runReceive, fetchReceive, now_congr henv hdrawn]

/-- Settles O7: the event RD runs is decoded after the command, from the row the command left alone. -/
theorem stepRunsTheDecodedInstructions : Obligations.StepRunsTheDecodedInstructions := by
  intro s hrst
  have hrun : step s = andThen (runCommand s) fun s₁ => andThen (runReceive s₁) fun s₂ => .next (endCycle s s₂) :=
    if_neg (by simp [hrst])
  refine ⟨fun hcmd => ?_, fun hcmd => ?_⟩
  · have hcommand : runCommand s = exec (decodeCommand s.now.cmdWord) s := by simp [runCommand, fetchCommand, hcmd]
    rw [hrun, hcommand]
    cases hexec : exec (decodeCommand s.now.cmdWord) s with
    | next s₁ => simp only [andThen, runReceive_of_exec hexec]
    | fault r => rfl
    | refused r => rfl
  · have hcommand : runCommand s = .next { s with res := { s.res with valid := false } } := by
      simp [runCommand, fetchCommand, hcmd, applyCu_noTransfer]
    rw [hrun, hcommand]
    rfl

/-! ### What a command writes (R50) -/

/-- A completed command sets no sticky bit but CMD_ERR (R142). -/
theorem cmdErrMask_cases (c : ResCode) : cmdErrMask c = 0 ∨ cmdErrMask c = 0x80 := by
  cases c <;> decide

/-- BUILD completes with a result and has no other effect. -/
theorem buildWrites_completed (a l : Byte) (d : Bytes 11) : ∃ r, buildWrites a l d = completed r := by
  unfold buildWrites
  split <;> exact ⟨_, rfl⟩

/-- CKSUM completes with a result and has no other effect. -/
theorem cksumWrites_completed (l : Byte) (d : Bytes 11) : ∃ r, cksumWrites l d = completed r := by
  unfold cksumWrites
  split <;> exact ⟨_, rfl⟩

/-- SEND completes with a result and appends at most the entry of a payload of at most 8 bytes (R126). -/
theorem sendWrites_completed (a l : Byte) (d : Bytes 11) :
    (∃ r, sendWrites a l d = completed r)
    ∨ ∃ r payload, payload.length ≤ 8 ∧ sendWrites a l d = { completed r with push := some (TxEntry.ofPayload a payload) } := by
  unfold sendWrites
  by_cases hl : l.toNat ≤ 8
  · rw [payloadOperand_of_le d hl]
    exact .inr ⟨_, _, by simp [hl], rfl⟩
  · rw [payloadOperand_of_gt d (by omega)]
    exact .inl ⟨_, rfl⟩

/-- The writes a command may have: only SEND pushes, only CLRST clears, no sticky bit is set but CMD_ERR. -/
structure CommandWrites (i : Instr) (w : CuWrites) : Prop where
  push : w.push ≠ none → ∃ a l d, i = .send a l d
  clear : w.clear = 0 ∨ ∃ a l d, i = .clrst a l d
  set : w.set = 0 ∨ w.set = 0x80

theorem commandWrites_completed (i : Instr) (r : Result) : CommandWrites i (completed r) :=
  ⟨fun h => absurd rfl h, .inl rfl, cmdErrMask_cases r.code⟩

theorem commandWrites_noTransfer (i : Instr) {p : Params} (s : Engine p) : CommandWrites i (noTransfer s) :=
  ⟨fun h => absurd rfl h, .inl rfl, .inl rfl⟩

theorem commandWrites_send (a l : Byte) (d : Bytes 11) : CommandWrites (.send a l d) (sendWrites a l d) := by
  obtain ⟨r, hw⟩ | ⟨r, payload, -, hw⟩ := sendWrites_completed a l d
  · exact hw ▸ commandWrites_completed _ r
  · exact hw ▸ ⟨fun _ => ⟨a, l, d, rfl⟩, .inl rfl, cmdErrMask_cases r.code⟩

/-- Every command is CU's writes at the state, of the kind it may have. -/
theorem exec_command {i : Instr} (s : State) (hi : i.isCommand = true) :
    ∃ w, exec i s = .next { toEngine := applyCu s.toEngine w } ∧ CommandWrites i w := by
  cases i with
  | nop a l d => exact ⟨_, rfl, commandWrites_completed _ _⟩
  | build a l d =>
    obtain ⟨r, hw⟩ := buildWrites_completed a l d
    exact ⟨_, rfl, hw ▸ commandWrites_completed _ r⟩
  | cksum a l d =>
    obtain ⟨r, hw⟩ := cksumWrites_completed l d
    exact ⟨_, rfl, hw ▸ commandWrites_completed _ r⟩
  | send a l d =>
    refine ⟨_, rfl, ?_⟩
    split
    · exact commandWrites_noTransfer _ _
    · exact commandWrites_send a l d
  | clrst a l d => exact ⟨_, rfl, fun h => absurd rfl h, .inr ⟨a, l, d, rfl⟩, .inl rfl⟩
  | rsv5 a l d => exact ⟨_, rfl, commandWrites_completed _ _⟩
  | rsv67 op a l d => exact ⟨_, rfl, commandWrites_completed _ _⟩
  | rsv8f op a l d => exact ⟨_, rfl, commandWrites_completed _ _⟩
  | _ => cases hi

/-- Settles O27: a command is CU's writes, and those touch `res`, `st` and the queue's end only. -/
theorem commandsLeaveTheOtherUnitsAlone : Obligations.CommandsLeaveTheOtherUnitsAlone := by
  intro i s t hi ht
  obtain ⟨w, hw, hpush, hclear, hset⟩ := exec_command s hi
  cases hw.symm.trans ht
  refine ⟨rfl, rfl, rfl, rfl, rfl, ⟨w.push.toList, rfl, ?_, ?_⟩, ?_⟩
  · cases w.push <;> simp
  · exact fun hadded => hpush fun hnone => hadded (by simp [hnone])
  · rcases hclear with hclear | hclrst
    · rcases hset with hset | hset
      · exact .inl (by simp [hclear, hset, and_allOnes8])
      · exact .inr (.inl (by simp [hclear, hset, and_allOnes8]))
    · exact .inr (.inr hclrst)

/-- Settles O23: a held SEND writes what a cycle without a transfer writes, and `cmd_ready` sees its opcode on the port. -/
theorem fullQueueHoldsSend : Obligations.FullQueueHoldsSend := by
  intro a l d s hfull
  have hqueue : s.queueFull = true := s.queueFull_iff.mpr hfull
  refine ⟨?_, fun hword => ?_⟩
  · simp [exec, execSend, hqueue, applyCu_noTransfer]
  · have hop : s.now.cmdOp = 0x3 := by
      rw [Inputs.cmdOp, hword]
      exact opField_packCommand 0x3 a l d
    simp [State.outputs, outputsWith, cmdReady, hop, hqueue]

/-! ### What a receive event writes (R50) -/

/-- The sticky bit that reports a reader event (R143). -/
def eventMask : RdEvent → BitVec 8
  | .none => 0
  | .badStx => Sticky.badStx
  | .lenFallback => Sticky.lenFallback
  | .badCksum => Sticky.badCksum
  | .badEtx => Sticky.badEtx
  | .closed => Sticky.rdClosed
  | .ioErr => Sticky.rdIoErr
  | .frame => 0

/-- A byte rule sets the sticky bit of the event it reports, and no other (R108 to R117). -/
theorem byteRule_set {p : Params} (b : Byte) (s : Engine p) : (byteRule b s).set = eventMask (byteRule b s).event := by
  unfold byteRule
  split
  · unfold byteInStx; split <;> rfl
  · rfl
  · unfold byteInLen; split <;> rfl
  · rfl
  · unfold byteInCks; split <;> rfl
  · unfold byteInEtx; split <;> rfl
  · rfl

/-- Every reader event's sticky bit is one of bits 0 to 5. -/
theorem eventMask_shift (e : RdEvent) : eventMask e >>> 6 = 0 := by
  cases e <;> decide

/-- A stream condition sets RD_CLOSED and RD_IOERR only (R105). -/
theorem rdStreamEnd_set_shift {p : Params} (eos err : Bool) (s : Engine p) : (rdStreamEnd eos err s).set >>> 6 = 0 := by
  show ((if err then Sticky.rdIoErr else 0) ||| (if eos then Sticky.rdClosed else 0)) >>> 6 = 0
  revert eos err
  decide

/-- RD's writes in a cycle with a stream condition, the link up or down, set no sticky bit from bit 6 on. -/
theorem rxEndWrites_set_shift {p : Params} (i : Inputs) (eos err : Bool) (s : Engine p) :
    (rxEndWrites i eos err s).set >>> 6 = 0 := by
  rw [rxEndWrites, rdHandshake_set]
  split
  · exact rdStreamEnd_set_shift eos err s
  · exact eventMask_shift .none

/-- Every receive event is RD's writes at the state, which set sticky bits 0 to 5 only. -/
theorem exec_receive {i : Instr} (s : State) (hi : i.isCommand = false) :
    ∃ w : RdWrites, exec i s = .next { toEngine := applyRd s.toEngine w } ∧ w.set >>> 6 = 0 := by
  cases i with
  | rxErr b v e => exact ⟨_, rfl, rxEndWrites_set_shift _ e true _⟩
  | rxEos b v => exact ⟨_, rfl, rxEndWrites_set_shift _ true false _⟩
  | rxByte b =>
    refine ⟨_, rfl, ?_⟩
    rw [rxByteWrites, rdHandshake_set]
    split_ifs
    · exact eventMask_shift .none
    · exact eventMask_shift .none
    · exact eventMask_shift .none
    · rw [byteRule_set]
      exact eventMask_shift _
  | rxIdle b =>
    refine ⟨_, rfl, ?_⟩
    rw [rxIdleWrites, rdHandshake_set]
    split_ifs <;> exact eventMask_shift .none
  | _ => cases hi

/-- Settles O40: a receive event is RD's writes, which only add sticky bits, from a mask below bit 6. -/
theorem receiveEventsLeaveTheOtherUnitsAlone : Obligations.ReceiveEventsLeaveTheOtherUnitsAlone := by
  intro i s t hi ht
  obtain ⟨w, hw, hset⟩ := exec_receive s hi
  cases hw.symm.trans ht
  refine ⟨rfl, rfl, rfl, rfl, rfl, fun k hk => by simp [hk], fun k hk => ?_⟩
  obtain ⟨j, rfl⟩ := Nat.exists_eq_add_of_le hk
  have hbit : w.set.getLsbD (6 + j) = false := by rw [← BitVec.getLsbD_ushiftRight, hset]; simp
  simp [hbit]

/-! ### The invariant unit by unit (R44, log 18)

The clauses of `Invariant` and `ZeroParts` fall into those of the reader and the output register, which RD writes, those of the
queue, and the one of the spacing counter. -/

/-- The clauses about the reader's registers. -/
structure BufferOk (r : Reader) : Prop where
  len_le : r.len.toNat ≤ 8
  cnt_le : r.cnt.toNat ≤ r.len.toNat
  inData : r.state = .data → 1 ≤ r.len.toNat ∧ r.cnt.toNat < r.len.toNat ∧ r.fb = false
  inCks : r.state = .cks ∨ r.state = .etx → r.cnt = r.len
  inFallback : r.fb = true → r.len.toNat = 1 ∧ 8 < r.data[0].toNat
  cleared : r.state = .stx ∨ r.state = .addr ∨ r.state = .drain →
    r.len = 0 ∧ r.cnt = 0 ∧ r.fb = false ∧ ∀ (k : Nat) (h : k < 8), r.data[k] = 0
  addrCleared : r.state = .stx → r.addr = 0
  closedStx : r.closed = true → r.state = .stx
  zero : zeroFrom r.cnt.toNat r.data
  inLen : r.state = .len → r.cnt = 0
  drainAddr : r.state = .drain → r.addr = 0

/-- The clauses about a held frame: its length and DATA register. -/
def HeldOk (len : BitVec 4) (data : Bytes 8) : Prop := len.toNat ≤ 8 ∧ zeroFrom len.toNat data

/-- The clauses about what RD writes. -/
structure InboundOk (r : Reader) (f : RxFrame) : Prop where
  buffer : BufferOk r
  frame : HeldOk f.len f.data
  drainFree : r.state = .drain → f.valid = false

/-- The clauses about the transmit queue. -/
def QueueOk (p : Params) (q : List TxEntry) : Prop := q.length ≤ p.txqDepth ∧ ∀ e ∈ q, HeldOk e.len e.data

/-- The clauses sorted by the unit that writes what they speak of. -/
theorem invariant_zeroParts_iff {p : Params} (s : Engine p) :
    Invariant s ∧ ZeroParts s ↔ InboundOk s.rd s.rxf ∧ QueueOk p s.txq ∧ s.spCnt.toNat ≤ p.spacing - 1 := by
  constructor
  · rintro ⟨h, z⟩
    exact ⟨⟨⟨h.rdLen_le, h.rdCnt_le, h.inData, h.inCks, h.inFallback, h.cleared, h.addrCleared, h.closedStx, z.rd, z.inLen,
      z.drainAddr⟩, ⟨h.rxfLen_le, z.rxf⟩, h.drainFree⟩, ⟨h.queue_le, z.txq⟩, h.spCnt_le⟩
  · rintro ⟨⟨b, ⟨hlen, hzero⟩, hdrain⟩, ⟨hqueue, hentries⟩, hspacing⟩
    exact ⟨⟨b.len_le, b.cnt_le, b.inData, b.inCks, b.inFallback, b.cleared, b.addrCleared, hdrain, b.closedStx, hlen, hqueue,
      hspacing⟩, hzero, hentries, b.zero, b.inLen, b.drainAddr⟩

theorem zeroFrom_replicate (m n : Nat) : zeroFrom n (Vector.replicate m 0#8) := by
  intro k hk _
  simp

/-- A byte stored at index `n` leaves zeros from `n + 1` on. -/
theorem zeroFrom_set {m n : Nat} {v : Bytes m} (hn : n < m) (h : zeroFrom n v) (b : Byte) : zeroFrom (n + 1) (v.set n b) := by
  intro k hk hnk
  rw [Vector.getElem_set_ne hn hk (by omega)]
  exact h k hk (by omega)

/-- A store at an index of the register is not discarded (R112). -/
theorem setIfInBounds_of_lt {m n : Nat} (v : Bytes m) (hn : n < m) (b : Byte) : v.setIfInBounds n b = v.set n b := by
  simp [Vector.setIfInBounds, Vector.set, Array.setIfInBounds, hn]

/-- A cleared buffer meets its clauses in the two states that a clear leads to (R118). -/
theorem bufferOk_clear (r : Reader) {st : RdState} {closed : Bool} (hst : st = .stx ∨ st = .drain)
    (hclosed : closed = true → st = .stx) : BufferOk { r.clear with state := st, closed := closed } := by
  rcases hst with rfl | rfl
  · constructor <;> simp [zeroFrom_replicate]
  · have hopen : closed = false := by simpa using hclosed
    constructor <;> simp [hopen, zeroFrom_replicate]

/-- `resync()` of a reader that is not closed leaves a cleared buffer (R118). -/
theorem bufferOk_resync (p : Params) {r : Reader} (hopen : r.closed = false) : BufferOk (r.resync p) := by
  have hst : (r.resync p).state = .stx ∨ (r.resync p).state = .drain := by
    rw [Reader.resync_state]
    split
    · exact .inr rfl
    · exact .inl rfl
  exact bufferOk_clear r hst (by simp [hopen])

/-! ### The reset state -/

theorem inboundOk_reset : InboundOk Reader.reset RxFrame.reset :=
  ⟨bufferOk_clear Reader.reset (.inl rfl) (fun _ => rfl), ⟨Nat.zero_le 8, zeroFrom_replicate 8 _⟩, fun _ => rfl⟩

theorem queueOk_nil (p : Params) : QueueOk p [] := ⟨Nat.zero_le _, by simp⟩

/-- Settles O12: each unit's reset values meet its clauses. -/
theorem resetStateIsInvariant : Obligations.ResetStateIsInvariant :=
  (invariant_zeroParts_iff _).mpr ⟨inboundOk_reset, queueOk_nil _, by simp⟩

/-! ### A byte keeps the reader's clauses (R108 to R117)

Each lemma names the clauses the byte's state transition touches; the others are those of the buffer before it. -/

section ByteRules

variable {r : Reader} (h : BufferOk r) (hopen : r.closed = false)

include h hopen

/-- STX leaves the buffer cleared and leads to `S_ADDR` (R108). -/
theorem bufferOk_toAddr (hst : r.state = .stx) : BufferOk { r with state := .addr } :=
  { h with
    inData := nofun
    inCks := by simp
    cleared := fun _ => h.cleared (.inl hst)
    addrCleared := nofun
    closedStx := by simp [hopen]
    inLen := nofun
    drainAddr := nofun }

/-- Storing ADDRESS leads to `S_LEN` with nothing counted (R109). -/
theorem bufferOk_toLen (hst : r.state = .addr) (b : Byte) : BufferOk { r with addr := b, state := .len } := by
  obtain ⟨-, hcnt, -⟩ := h.cleared (.inr (.inl hst))
  exact { h with
    inData := nofun
    inCks := by simp
    cleared := by simp
    addrCleared := nofun
    closedStx := by simp [hopen]
    inLen := fun _ => hcnt
    drainAddr := nofun }

/-- A declared length leads to `S_CKS` when it is 0 and to `S_DATA` otherwise (R110). -/
theorem bufferOk_declared (hst : r.state = .len) {b : Byte} (hb : b.toNat ≤ 8) :
    BufferOk { r with len := b.setWidth 4, cnt := 0, fb := false, state := if b = 0 then .cks else .data } := by
  have hlen : (b.setWidth 4).toNat = b.toNat := by simp; omega
  have hzero : zeroFrom 0 r.data := by simpa [h.inLen hst] using h.zero
  by_cases h0 : b = 0
  · subst h0
    constructor <;> simp [hopen, hzero]
  · have hpos : 0 < b.toNat := by simpa [Nat.pos_iff_ne_zero, ← BitVec.toNat_inj] using h0
    rw [if_neg h0]
    exact {
      len_le := hlen.trans_le hb
      cnt_le := Nat.zero_le _
      inData := fun _ => ⟨hpos.trans_eq hlen.symm, hpos.trans_eq hlen.symm, rfl⟩
      inCks := by simp
      inFallback := nofun
      cleared := by simp
      addrCleared := nofun
      closedStx := by simp [hopen]
      zero := hzero
      inLen := nofun
      drainAddr := nofun }

/-- A byte above 8 in `S_LEN` is the fallback's one DATA byte (R111). -/
theorem bufferOk_fallback (hst : r.state = .len) {b : Byte} (hb : 8 < b.toNat) :
    BufferOk { r with data := r.data.set 0 b, len := 1, cnt := 1, fb := true, state := .cks } := by
  have hzero : zeroFrom 0 r.data := by simpa [h.inLen hst] using h.zero
  have hset : zeroFrom 1 (r.data.set 0 b) := zeroFrom_set (by omega) hzero b
  constructor <;> simp [hopen, hset, hb]

/-- A DATA byte is stored behind the others; the last one leads to `S_CKS` (R112). -/
theorem bufferOk_stored (hst : r.state = .data) (b : Byte) :
    BufferOk { r with
      data := r.data.setIfInBounds r.cnt.toNat b
      cnt := r.cnt + 1
      state := if r.cnt.toNat + 1 = r.len.toNat then .cks else .data } := by
  have hlen := h.len_le
  obtain ⟨hpos, hlt, hfb⟩ := h.inData hst
  have hcnt : (r.cnt + 1).toNat = r.cnt.toNat + 1 := by simp; omega
  have hzero : zeroFrom (r.cnt + 1).toNat (r.data.setIfInBounds r.cnt.toNat b) := by
    rw [hcnt, setIfInBounds_of_lt _ (by omega)]
    exact zeroFrom_set (by omega) h.zero b
  by_cases hlast : r.cnt.toNat + 1 = r.len.toNat
  · rw [if_pos hlast]
    exact { h with
      cnt_le := hcnt.trans_le hlt
      inData := nofun
      inCks := fun _ => BitVec.eq_of_toNat_eq (hcnt.trans hlast)
      inFallback := by simp [hfb]
      cleared := by simp
      addrCleared := nofun
      closedStx := by simp [hopen]
      zero := hzero
      inLen := nofun
      drainAddr := nofun }
  · rw [if_neg hlast]
    exact { h with
      cnt_le := hcnt.trans_le hlt
      inData := fun _ => ⟨hpos, hcnt.trans_lt (Nat.lt_of_le_of_ne hlt hlast), hfb⟩
      inCks := by simp
      inFallback := by simp [hfb]
      cleared := by simp
      addrCleared := nofun
      closedStx := by simp [hopen]
      zero := hzero
      inLen := nofun
      drainAddr := nofun }

/-- A matching checksum leads to `S_ETX` (R114). -/
theorem bufferOk_toEtx (hst : r.state = .cks) : BufferOk { r with state := .etx } :=
  { h with
    inData := nofun
    inCks := fun _ => h.inCks (.inl hst)
    cleared := by simp
    addrCleared := nofun
    closedStx := by simp [hopen]
    inLen := nofun
    drainAddr := nofun }

end ByteRules

/-- The end of the drain leads to `S_STX` with the buffer as the drain left it (R107). -/
theorem bufferOk_drainEnd {r : Reader} (h : BufferOk r) (hst : r.state = .drain) : BufferOk { r with state := .stx } :=
  { h with
    inData := nofun
    inCks := by simp
    cleared := fun _ => h.cleared (.inr (.inr hst))
    addrCleared := fun _ => h.drainAddr hst
    closedStx := fun _ => rfl
    inLen := nofun
    drainAddr := nofun }

/-! ### RD keeps the inbound clauses (R103, R119) -/

/-- The byte rule of every state keeps the clauses, for a byte that transfers: no frame waits meanwhile (R28). -/
theorem byteRule_keeps {p : Params} {s : Engine p} (h : InboundOk s.rd s.rxf) (hopen : s.rd.closed = false)
    (hfree : s.rxf.valid = false) (b : Byte) : InboundOk (byteRule b s).rd (byteRule b s).rxf := by
  have hbuffer := h.buffer
  unfold byteRule
  split
  case h_1 hst =>
    unfold byteInStx
    split
    · exact ⟨bufferOk_toAddr hbuffer hopen hst, h.frame, fun _ => hfree⟩
    · exact h
  case h_2 hst => exact ⟨bufferOk_toLen hbuffer hopen hst b, h.frame, fun _ => hfree⟩
  case h_3 hst =>
    unfold byteInLen
    split
    case isTrue hb => exact ⟨bufferOk_declared hbuffer hopen hst hb, h.frame, fun _ => hfree⟩
    case isFalse hb => exact ⟨bufferOk_fallback hbuffer hopen hst (Nat.lt_of_not_le hb), h.frame, fun _ => hfree⟩
  case h_4 hst => exact ⟨bufferOk_stored hbuffer hopen hst b, h.frame, fun _ => hfree⟩
  case h_5 hst =>
    unfold byteInCks
    split
    · exact ⟨bufferOk_toEtx hbuffer hopen hst, h.frame, fun _ => hfree⟩
    · exact ⟨bufferOk_resync p hopen, h.frame, fun _ => hfree⟩
  case h_6 hst =>
    unfold byteInEtx
    split
    · have hemitted : HeldOk s.rd.len s.rd.data := ⟨hbuffer.len_le, hbuffer.inCks (.inr hst) ▸ hbuffer.zero⟩
      exact ⟨bufferOk_clear s.rd (.inl rfl) fun _ => rfl, hemitted, nofun⟩
    · exact ⟨bufferOk_resync p hopen, h.frame, fun _ => hfree⟩
  case h_7 => exact h

/-- The output handshake keeps the clauses: it only lowers `rxf_valid_reg` (R119). -/
theorem rdHandshake_keeps {p : Params} (i : Inputs) (s : Engine p) {w : RdWrites} (h : InboundOk w.rd w.rxf) :
    InboundOk (rdHandshake i s w).rd (rdHandshake i s w).rxf := by
  rw [rdHandshake_rd, rdHandshake_rxf]
  exact ⟨h.buffer, h.frame, fun hdrain => by simp [h.drainFree hdrain]⟩

/-- RD keeps the inbound clauses, branch by branch of R103. -/
theorem rdStep_keeps {p : Params} {s : Engine p} (i : Inputs) (h : InboundOk s.rd s.rxf) :
    InboundOk (rdStep i s).rd (rdStep i s).rxf := by
  unfold rdStep
  apply rdHandshake_keeps
  split_ifs with hlink hend hclosed hdrain hvalid hxfer
  · exact ⟨bufferOk_clear s.rd (.inl rfl) fun _ => rfl, h.frame, fun _ => rfl⟩
  · exact ⟨bufferOk_clear s.rd (.inl rfl) fun _ => rfl, h.frame, nofun⟩
  · exact h
  · exact h
  · exact ⟨bufferOk_drainEnd h.buffer hdrain, h.frame, nofun⟩
  · have hfree : s.rxf.valid = false := by
      simp only [rxXfer, rxReady, Bool.and_eq_true, Bool.not_eq_true'] at hxfer
      obtain ⟨-, -, hfree⟩ := hxfer
      exact hfree
    exact byteRule_keeps h (by simpa using hclosed) hfree _
  · exact h

/-! ### CU and SS keep the queue's clauses (R26, R67, R126) -/

/-- CU pushes only while the queue is not full, and only the entry of a payload of at most 8 bytes. -/
theorem cuStep_push {p : Params} {i : Inputs} {s : Engine p} {e : TxEntry} (h : (cuStep i s).push = some e) :
    s.txq.length ≠ p.txqDepth ∧ ∃ a d, d.length ≤ 8 ∧ e = TxEntry.ofPayload a d := by
  unfold cuStep at h
  split_ifs at h with hxfer h0 h1 h2 h3 h4
  · cases h
  · obtain ⟨r, hw⟩ := buildWrites_completed i.cmdAddr i.cmdLen i.cmdData
    rw [hw] at h
    cases h
  · obtain ⟨r, hw⟩ := cksumWrites_completed i.cmdLen i.cmdData
    rw [hw] at h
    cases h
  · obtain ⟨r, hw⟩ | ⟨r, d, hd, hw⟩ := sendWrites_completed i.cmdAddr i.cmdLen i.cmdData
    · rw [hw] at h
      cases h
    · rw [hw] at h
      cases h
      have hroom : s.queueFull ≠ true := by
        intro hfull
        simp [cmdXfer, cmdReady, h3, hfull] at hxfer
      exact ⟨mt s.queueFull_iff.mpr hroom, _, d, hd, rfl⟩
  · cases h
  · cases h
  · cases h

/-- The entry of a payload of at most 8 bytes has its length and zeros behind it (R126). -/
theorem heldOk_ofPayload (a : Byte) {d : List Byte} (hd : d.length ≤ 8) :
    HeldOk (TxEntry.ofPayload a d).len (TxEntry.ofPayload a d).data := by
  have hlen : (TxEntry.ofPayload a d).len.toNat = d.length := by
    simp [TxEntry.ofPayload]
    omega
  refine ⟨hlen ▸ hd, fun k hk hkd => ?_⟩
  rw [hlen] at hkd
  simp [TxEntry.ofPayload, hkd]

theorem queueOk_sublist {p : Params} {q r : List TxEntry} (h : QueueOk p r) (hsub : q.Sublist r) : QueueOk p q := by
  obtain ⟨hlen, hentries⟩ := h
  exact ⟨hsub.length_le.trans hlen, fun e he => hentries e (hsub.subset he)⟩

/-- A removal by SS and an append by CU keep the queue's clauses (R52). -/
theorem combine_keeps_queue {p : Params} {s : Engine p} (i : Inputs) (rd : RdWrites) (ss : SsWrites p) (h : QueueOk p s.txq) :
    QueueOk p (combine s (cuStep i s) rd ss).txq := by
  rw [combine_txq]
  have hsub : (if ss.pop then s.txq.tail else s.txq).Sublist s.txq := by
    split
    · exact List.tail_sublist _
    · exact List.Sublist.refl _
  cases hpush : (cuStep i s).push with
  | none => simpa using queueOk_sublist h hsub
  | some e =>
    obtain ⟨hroom, a, d, hd, rfl⟩ := cuStep_push hpush
    obtain ⟨hdepth, hentries⟩ := h
    have hle := hsub.length_le
    refine ⟨?_, fun x hx => ?_⟩
    · rw [List.length_append, Option.toList_some, List.length_singleton]
      omega
    · rcases List.mem_append.mp hx with hx | hx
      · exact hentries x (hsub.subset hx)
      · rw [Option.toList_some, List.mem_singleton] at hx
        exact hx ▸ heldOk_ofPayload a hd

/-! ### A cycle keeps the invariant -/

/-- SS loads the counter with `S - 1` or counts it down (R128 to R132). -/
theorem ssStep_spCnt_le {p : Params} {s : Engine p} (i : Inputs) (h : s.spCnt.toNat ≤ p.spacing - 1) :
    (ssStep i s).spCnt.toNat ≤ p.spacing - 1 := by
  rw [ssStep_spCnt]
  split <;> omega

/-- Each unit keeps its own clauses, and a reset cycle loads values that meet them; no parameter value is ruled out. -/
theorem concurrentCycle_keeps {p : Params} {s : Engine p} (i : Inputs) (h : Invariant s) (z : ZeroParts s) :
    Invariant (concurrentCycle i s) ∧ ZeroParts (concurrentCycle i s) := by
  obtain ⟨hin, hqueue, hspacing⟩ := (invariant_zeroParts_iff s).mp ⟨h, z⟩
  rw [invariant_zeroParts_iff, concurrentCycle]
  split
  · exact ⟨inboundOk_reset, queueOk_nil p, by simp⟩
  · exact ⟨rdStep_keeps i hin, combine_keeps_queue i (rdStep i s) _ hqueue, ssStep_spCnt_le i hspacing⟩

/-- Settles O11: the step is the concurrent cycle, which keeps the clauses of every unit. -/
theorem stepKeepsTheInvariants : Obligations.StepKeepsTheInvariants :=
  ⟨fun s h z => ⟨_, stepIsTheConcurrentCycle s, concurrentCycle_keeps s.now h z⟩,
    fun _ i _ _ h z => concurrentCycle_keeps i h z⟩

/-! ### STATUS and the ports (R26 to R31, R46) -/

/-- A slice of STATUS, with the width written as the sum of the fields' widths. -/
theorem slice_statusWord {p : Params} (linkUp : Bool) (s : Engine p) (i k : Nat) :
    (statusWord linkUp s).extractLsb' i k =
      BitVec.extractLsb' (n := 12 + 4 + 1 + 1 + 1 + 1 + 1 + 3 + 8) i k
        ((0 : BitVec 12) ++ s.txqCount ++ (0 : BitVec 1) ++ BitVec.ofBool linkUp ++ BitVec.ofBool (s.spCnt.toNat != 0)
          ++ BitVec.ofBool s.rxf.valid ++ BitVec.ofBool s.rd.closed ++ s.rd.state.code ++ s.st) := rfl

/-- The one-bit fields of STATUS, bits 11 to 15. -/
theorem statusWord_bits {p : Params} (linkUp : Bool) (s : Engine p) :
    (statusWord linkUp s).getLsbD 11 = s.rd.closed
    ∧ (statusWord linkUp s).getLsbD 12 = s.rxf.valid
    ∧ (statusWord linkUp s).getLsbD 13 = (s.spCnt.toNat != 0)
    ∧ (statusWord linkUp s).getLsbD 14 = linkUp
    ∧ (statusWord linkUp s).getLsbD 15 = false := by
  simp only [statusWord, BitVec.getLsbD_append]
  simp

/-- Settles O51: each field is read off the concatenation that STATUS is. -/
theorem statusWordFields : Obligations.StatusWordFields := by
  intro s hlen
  have hstatus : s.outputs.status = statusWord s.now.linkUp s.toEngine := rfl
  obtain ⟨hclosed, hpending, hbusy, hlink, hreserved⟩ := statusWord_bits s.now.linkUp s.toEngine
  simp only [hstatus]
  refine ⟨?_, ?_, ?_, ?_, ?_, ?_, ?_, ?_, ?_⟩
  · rw [slice_statusWord, slice_append_lo _ _ (by decide), slice_whole]
  · rw [slice_statusWord, slice_append_hi _ _ (by decide), slice_append_lo _ _ (by decide)]
    refine (slice_whole _).trans ?_
    cases s.rd.state <;> rfl
  · exact hclosed
  · exact hpending
  · rw [hbusy, bne, beq_eq_decide, decide_not]
  · exact hlink
  · exact hreserved
  · have hcount : (statusWord s.now.linkUp s.toEngine).extractLsb' 16 4 = s.txqCount := by
      rw [slice_statusWord]
      iterate 7 rw [slice_append_hi _ _ (by decide)]
      rw [slice_append_lo _ _ (by decide)]
      exact slice_whole _
    rw [hcount, Engine.txqCount, BitVec.toNat_ofNat]
    omega
  · rw [slice_statusWord]
    iterate 8 rw [slice_append_hi _ _ (by decide)]
    exact slice_whole _

/-- Settles O53: each port's output is a conjunction of the conditions its rule names. -/
theorem portsAreReadyAndValidAsTheRulesSay : Obligations.PortsAreReadyAndValidAsTheRulesSay := by
  intro s
  have hdepth : Config.params.txqDepth = 4 := rfl
  refine ⟨?_, ?_, ?_, ?_⟩
  · simp [State.outputs, outputsWith, cmdReady, Engine.queueFull, hdepth, imp_iff_not_or]
  · simp [State.outputs, outputsWith, rxReady]
  · simp [State.outputs, outputsWith, rxfValid, and_assoc]
  · simp [State.outputs, outputsWith, txValid, and_assoc, List.length_pos_iff]

/-- Settles O54: each output is its register's field by definition, and `res_code` has the value of R90 name by name. -/
theorem resultAndFramePortsPresentTheirRegisters : Obligations.ResultAndFramePortsPresentTheirRegisters := by
  intro s
  have hcode : s.outputs.resCode = s.res.code.code := rfl
  refine ⟨rfl, rfl, ?_, rfl, rfl, rfl, rfl, rfl, rfl⟩
  rw [hcode]
  cases s.res.code <;> rfl

end Sys2Proof.Proofs.State
end

section
/-! PROOFS. The storage and the ordering of 20_memory.md: held frames are not modified (R65), the transmit queue is first in,
first out (R67, R69), and the inbound and the outbound path are independent (R70). -/

namespace Sys2Proof.Proofs.Memory

open Sys2Proof.Machine

/-! ### The entry a SEND pushes (R26, R126) -/

/-- SEND pushes the entry of its payload, and nothing when the length is above 8. -/
theorem sendWrites_push (a l : Byte) (d : Bytes 11) :
    (sendWrites a l d).push = if l.toNat ≤ 8 then some (TxEntry.ofPayload a (prefixBytes d l.toNat)) else none := by
  unfold sendWrites
  by_cases hl : l.toNat ≤ 8
  · rw [payloadOperand_of_le d hl, if_pos hl]
  · rw [payloadOperand_of_gt d (Nat.lt_of_not_le hl), if_neg hl]
    rfl

/-- No command but SEND pushes. -/
theorem cuStep_push_of_not_send {p : Params} {i : Inputs} (s : Engine p) (hop : i.cmdOp ≠ 0x3) : (cuStep i s).push = none := by
  obtain ⟨r, hbuild⟩ := State.buildWrites_completed i.cmdAddr i.cmdLen i.cmdData
  obtain ⟨r', hcksum⟩ := State.cksumWrites_completed i.cmdLen i.cmdData
  unfold cuStep
  rw [hbuild, hcksum, if_neg hop]
  split_ifs <;> rfl

/-- What CU pushes in a cycle: a transferring SEND's entry, at the pins. -/
theorem cuStep_push_eq {p : Params} (i : Inputs) (s : Engine p) :
    (cuStep i s).push =
      if cmdXfer i s = true ∧ i.cmdOp = 0x3 ∧ i.cmdLen.toNat ≤ 8 then
        some (TxEntry.ofPayload i.cmdAddr (prefixBytes i.cmdData i.cmdLen.toNat))
      else none := by
  by_cases hop : i.cmdOp = 0x3
  · by_cases hxfer : cmdXfer i s = true
    · have hsend : cuStep i s = sendWrites i.cmdAddr i.cmdLen i.cmdData := by simp [cuStep, hxfer, hop]
      rw [hsend, sendWrites_push]
      simp [hxfer, hop]
    · obtain ⟨-, hidle, -⟩ := cuStep_result i s
      rw [hidle (by simpa using hxfer)]
      simp [noTransfer, hxfer]
  · rw [cuStep_push_of_not_send s hop, if_neg fun ⟨_, hsend, _⟩ => hop hsend]

/-- A SEND transfers when it is presented to a queue that is not full, outside reset (R26). -/
theorem cmdXfer_of_send {p : Params} {i : Inputs} (s : Engine p) (hop : i.cmdOp = 0x3) :
    cmdXfer i s = true ↔ i.rst = false ∧ i.cmdValid = true ∧ s.txq.length ≠ p.txqDepth := by
  simp [cmdXfer, cmdReady, hop, Engine.queueFull, and_left_comm]

/-- The pushed entry field by field: `{addr, len, data[0..len) ++ zeros to 8 bytes}` (R126). -/
theorem ofPayload_prefixBytes (a : Byte) {l : Byte} (d : Bytes 11) (hl : l.toNat ≤ 8) :
    TxEntry.ofPayload a (prefixBytes d l.toNat) =
      { addr := a, len := l.setWidth 4, data := Vector.ofFn fun k => if k.val < l.toNat then d[k.val] else 0 } := by
  have hlen : BitVec.ofNat 4 (prefixBytes d l.toNat).length = l.setWidth 4 := by
    rw [prefixBytes_length, Nat.min_eq_left (by omega), BitVec.ofNat_toNat]
  have hdata : padBytes 8 (prefixBytes d l.toNat) = Vector.ofFn fun k => if k.val < l.toNat then d[k.val] else 0 := by
    ext k hk
    by_cases hkl : k < l.toNat
    · simp [prefixBytes, hkl, show k < 11 by omega]
    · simp [prefixBytes, hkl]
  rw [TxEntry.ofPayload, hlen, hdata]

/-- CU pushes the accepted entry of the cycle. -/
theorem cuStep_push_toList {p : Params} (s : Engine p) : (cuStep s.now s).push.toList = acceptedEntry s := by
  rw [cuStep_push_eq, acceptedEntry]
  by_cases hop : s.now.cmdOp = 0x3
  · by_cases hl : s.now.cmdLen.toNat ≤ 8
    · simp only [hop, hl, cmdXfer_of_send s hop, ofPayload_prefixBytes _ _ hl, true_and, and_true]
      split <;> rfl
    · simp [hl]
  · rw [if_neg fun ⟨_, hsend, _⟩ => hop hsend, if_neg fun ⟨_, _, hsend, _⟩ => hop hsend]
    rfl

/-! ### First in, first out (R67, R69) -/

/-- The departing entry is the queue's head: it stood in front of what stays (R67). -/
theorem departedEntry_append_rest {p : Params} (s : Engine p) :
    departedEntry s ++ (if writeStart s = true then s.txq.tail else s.txq) = s.txq := by
  unfold departedEntry
  split
  · rw [← List.drop_one, List.take_append_drop]
  · rfl

/-- One cycle moves no entry past another: what departs and what stays is what was queued and what is appended (R52). -/
theorem departedEntry_append_advance {p : Params} (s : Engine p) (hrst : s.now.rst = false) :
    departedEntry s ++ (advance s).txq = s.txq ++ acceptedEntry s := by
  rw [advance_txq s hrst, cuStep_push_toList, ← List.append_assoc, departedEntry_append_rest]

/-- Settles O49, by induction on the number of cycles: each cycle keeps the order of all entries. -/
theorem transmitQueueIsFirstInFirstOut : Obligations.TransmitQueueIsFirstInFirstOut := by
  intro p n
  induction n with
  | zero => intro s _; exact (List.append_nil s.txq).symm
  | succ n ih =>
    intro s hrun
    obtain ⟨hrst, hrest⟩ := noReset_succ hrun
    calc departed (n + 1) s ++ (after (n + 1) s).txq
        = departedEntry s ++ (departed n (advance s) ++ (after n (advance s)).txq) := List.append_assoc ..
      _ = (departedEntry s ++ (advance s).txq) ++ accepted n (advance s) := by rw [ih _ hrest, List.append_assoc]
      _ = (s.txq ++ acceptedEntry s) ++ accepted n (advance s) := by rw [departedEntry_append_advance s hrst]
      _ = s.txq ++ accepted (n + 1) s := List.append_assoc ..

/-! ### A waiting frame (R65, R68, R119) -/

/-- While a frame waits RD writes nothing to the output register but its valid bit: no byte transfers (R28), so no frame ends. -/
theorem rdStep_rxf_of_waiting {p : Params} (i : Inputs) (s : Engine p) (hwait : s.rxf.valid = true) :
    (rdStep i s).rxf = { s.rxf with valid := i.linkUp && !i.rxfReady } := by
  have hxfer : ¬ rxXfer i s = true := by simp [rxXfer, rxReady, hwait]
  rw [rdStep, rdHandshake_rxf, if_neg hxfer]
  cases hlink : i.linkUp with
  | false =>
    rw [if_pos rfl]
    simp [rdLinkDown]
  | true =>
    rw [if_neg nofun]
    split_ifs <;> simp [rdStreamEnd, rdNothing, rdDrainEnd, hwait]

/-- Settles O41: the cycle writes what RD does to a waiting frame, and both outputs read the valid bit. -/
theorem waitingFrameIsKeptUntilTakenOrDropped : Obligations.WaitingFrameIsKeptUntilTakenOrDropped := by
  intro s t hrst hwait ht
  cases (State.stepIsTheConcurrentCycle s).symm.trans ht
  refine ⟨?_, ?_, ?_⟩
  · simp [concurrentCycle, hrst, rdStep_rxf_of_waiting _ _ hwait]
  · simp [State.outputs, outputsWith, rxReady, hwait]
  · simp [State.outputs, outputsWith, rxfValid, hrst, hwait]

/-! ### Independence of the two paths (R70, R50)

Each unit's step is unchanged when every field it does not read is replaced, which holds by definition; of CU's writes this is
said of the push alone, as without a transfer the result registers keep their values. -/

section Independence

variable {p : Params} {i j : Inputs} {s t : Engine p} (hrst : i.rst = j.rst) (hlink : i.linkUp = j.linkUp)

include hrst hlink in
/-- RD reads the receive pins, `rxf_ready`, `link_up`, `rst`, the reader and the output register only. -/
theorem rdStep_congr (hrx : i.rxWord = j.rxWord) (hready : i.rxfReady = j.rxfReady) (hrd : s.rd = t.rd) (hrxf : s.rxf = t.rxf) :
    rdStep i s = rdStep j t :=
  calc rdStep i s
      = rdStep i { t with rd := s.rd, rxf := s.rxf } := rfl
    _ = rdStep i t := by rw [hrd, hrxf]
    _ = rdStep { j with rst := i.rst, linkUp := i.linkUp, rxWord := i.rxWord, rxfReady := i.rxfReady } t := rfl
    _ = rdStep j t := by rw [hrst, hlink, hrx, hready]

include hlink in
/-- SS reads `tx_ready`, `link_up`, the queue and the spacing counter only. -/
theorem ssStep_congr (hready : i.txReady = j.txReady) (htxq : s.txq = t.txq) (hspCnt : s.spCnt = t.spCnt) :
    ssStep i s = ssStep j t :=
  calc ssStep i s
      = ssStep i { t with txq := s.txq, spCnt := s.spCnt } := rfl
    _ = ssStep i t := by rw [htxq, hspCnt]
    _ = ssStep { j with linkUp := i.linkUp, txReady := i.txReady } t := rfl
    _ = ssStep j t := by rw [hlink, hready]

include hrst in
/-- What CU pushes depends on the command pins, `rst` and the queue only. -/
theorem cuStep_push_congr (hvalid : i.cmdValid = j.cmdValid) (hword : i.cmdWord = j.cmdWord) (htxq : s.txq = t.txq) :
    (cuStep i s).push = (cuStep j t).push := by
  have hxfer : cmdXfer i s = cmdXfer i t := by simp only [cmdXfer, cmdReady, Engine.queueFull, htxq]
  calc (cuStep i s).push
      = (cuStep i t).push := by rw [cuStep_push_eq, cuStep_push_eq, hxfer]
    _ = (cuStep { j with rst := i.rst, cmdValid := i.cmdValid, cmdWord := i.cmdWord } t).push := rfl
    _ = (cuStep j t).push := by rw [hrst, hvalid, hword]

end Independence

/-- Settles O50: the inbound side is what RD writes and reads, the outbound side what SS writes and CU pushes; a reset cycle loads
constants. -/
theorem inboundAndOutboundAreIndependent : Obligations.InboundAndOutboundAreIndependent := by
  intro p i j s t hrst hlink
  constructor
  · intro hrx hready hrd hrxf
    have hstep : rdStep i s = rdStep j t := rdStep_congr hrst hlink hrx hready hrd hrxf
    refine ⟨?_, ?_, ?_, ?_, ?_, ?_, ?_⟩
    · cases hreset : j.rst <;> simp [concurrentCycle, hrst, hreset, hstep]
    · cases hreset : j.rst <;> simp [concurrentCycle, hrst, hreset, hstep]
    all_goals simp [outputsWith, evRd, rxReady, rxfValid, hrst, hlink, hrxf, hstep]
  · intro hvalid hword hready htxq hspCnt
    have hpush : (cuStep i s).push = (cuStep j t).push := cuStep_push_congr hrst hvalid hword htxq
    have hstep : ssStep i s = ssStep j t := ssStep_congr hlink hready htxq hspCnt
    refine ⟨?_, ?_, ?_, ?_, ?_, ?_⟩
    · cases hreset : j.rst <;> simp [concurrentCycle, hrst, hreset, htxq, hpush, hstep]
    · cases hreset : j.rst <;> simp [concurrentCycle, hrst, hreset, hstep]
    all_goals simp [outputsWith, txValid, txFlen, txFrame, evTxFail, hrst, hlink, htxq, hspCnt, hstep]

end Sys2Proof.Proofs.Memory
end

section
/-! PROOFS. The encodings of 30_encoding.md: decoder and encoder are inverse on both ports (R84, R85, R88), a placed word is the one
the step runs (R93), operands that are not read (R86), frames (R83, R96), and the reader's events (R91). -/

namespace Sys2Proof.Proofs.Encoding

open Sys2Proof.Machine

/-! ### Command words (R84, R85) -/

/-- The row of R85 that the opcode `op` selects, with the given operands. -/
def commandOf (op : BitVec 4) (a l : Byte) (d : Bytes 11) : Instr :=
  match op.toNat with
  | 0 => .nop a l d
  | 1 => .build a l d
  | 2 => .cksum a l d
  | 3 => .send a l d
  | 4 => .clrst a l d
  | 5 => .rsv5 a l d
  | 6 => .rsv67 0x6 a l d
  | 7 => .rsv67 0x7 a l d
  | _ => .rsv8f op a l d

/-- The decoder selects a command word's row by its opcode and takes the operands from its fields. -/
theorem decodeCommand_eq_commandOf (w : CmdWord) :
    decodeCommand w = commandOf (opField w) (addrField w) (lenField w) (dataField w) := rfl

theorem decodeCommand_packCommand (op : BitVec 4) (a l : Byte) (d : Bytes 11) :
    decodeCommand (packCommand op a l d) = commandOf op a l d := by
  simp [decodeCommand_eq_commandOf]

/-- Rows 0x8 to 0xF share one constructor, which keeps the opcode. -/
theorem commandOf_of_ge {op : BitVec 4} (h : 8 ≤ op.toNat) (a l : Byte) (d : Bytes 11) :
    commandOf op a l d = .rsv8f op a l d := by
  unfold commandOf
  split
  case h_9 => rfl
  all_goals omega

/-- The selected row is well formed and is written with the opcode that selects it, opcode by opcode. -/
theorem wellFormed_encode_commandOf (op : BitVec 4) (a l : Byte) (d : Bytes 11) :
    (commandOf op a l d).wellFormed = true ∧ encode (commandOf op a l d) = .command (packCommand op a l d) := by
  obtain ⟨n, hn⟩ := op
  interval_cases n <;> exact ⟨rfl, rfl⟩

/-- Settles O5: the opcode fixes the branch of the decoder's match. -/
theorem opcodeMapSelectsTheRow : Obligations.OpcodeMapSelectsTheRow := by
  intro w op a l d
  have hrow : decodeCommand w = commandOf op a l d := decodeCommand_eq_commandOf w
  rw [hrow]
  clear_value op
  refine ⟨?_, ?_, ?_, ?_, ?_, ?_, ?_, fun hop => commandOf_of_ge hop a l d⟩
  case refine_7 => rintro (rfl | rfl) <;> rfl
  all_goals
    rintro rfl
    rfl

/-! ### Receive-event words (R88) -/

/-- Settles O6: the decoder tests the bits in the order of the classes. -/
theorem receiveEventClassPriority : Obligations.ReceiveEventClassPriority := by
  intro w b
  refine ⟨fun h10 => ?_, fun h10 h9 => ?_, fun h10 h9 h8 => ?_, fun h10 h9 h8 => ?_⟩
  · rw [decodeReceive, if_pos h10]
  · rw [decodeReceive, if_neg (Bool.eq_false_iff.mp h10), if_pos h9]
  · rw [decodeReceive, if_neg (Bool.eq_false_iff.mp h10), if_neg (Bool.eq_false_iff.mp h9), if_pos h8]
  · rw [decodeReceive, if_neg (Bool.eq_false_iff.mp h10), if_neg (Bool.eq_false_iff.mp h9), if_neg (Bool.eq_false_iff.mp h8)]

/-- The decoder reads a packed receive event's bits and byte back. -/
theorem decodeReceive_packReceive (err eos valid : Bool) (b : Byte) :
    decodeReceive (packReceive err eos valid b) =
      if err then .rxErr b valid eos else if eos then .rxEos b valid else if valid then .rxByte b else .rxIdle b := by
  simp only [decodeReceive, packReceive_bit10, packReceive_bit9, packReceive_bit8, slice_packReceive]

/-- A receive event is well formed and is written with the bits that select its class. -/
theorem wellFormed_encode_decodeReceive (w : RxWord) :
    (decodeReceive w).wellFormed = true ∧ encode (decodeReceive w) = .receive w := by
  have hfields := packReceive_fields w
  unfold decodeReceive
  split_ifs with h10 h9 h8 <;> refine ⟨rfl, congrArg PortWord.receive ?_⟩
  · rwa [h10] at hfields
  · rwa [Bool.eq_false_of_not_eq_true h10, h9] at hfields
  · rwa [Bool.eq_false_of_not_eq_true h10, Bool.eq_false_of_not_eq_true h9, h8] at hfields
  · rwa [Bool.eq_false_of_not_eq_true h10, Bool.eq_false_of_not_eq_true h9, Bool.eq_false_of_not_eq_true h8] at hfields

/-! ### Decoder and encoder -/

/-- Settles O2, row by row: a command's fields are read back from where they were put, and so are a receive event's bits. -/
theorem decodeOfEncodeIsTheInstruction : Obligations.DecodeOfEncodeIsTheInstruction := by
  intro i hwf
  cases i with
  | nop a l d => exact decodeCommand_packCommand 0x0 a l d
  | build a l d => exact decodeCommand_packCommand 0x1 a l d
  | cksum a l d => exact decodeCommand_packCommand 0x2 a l d
  | send a l d => exact decodeCommand_packCommand 0x3 a l d
  | clrst a l d => exact decodeCommand_packCommand 0x4 a l d
  | rsv5 a l d => exact decodeCommand_packCommand 0x5 a l d
  | rsv67 op a l d =>
    have hop : op = 0x6 ∨ op = 0x7 := by simpa [Instr.wellFormed] using hwf
    rcases hop with rfl | rfl
    · exact decodeCommand_packCommand 0x6 a l d
    · exact decodeCommand_packCommand 0x7 a l d
  | rsv8f op a l d =>
    have hop : 8 ≤ op.toNat := of_decide_eq_true hwf
    exact (decodeCommand_packCommand op a l d).trans (commandOf_of_ge hop a l d)
  | rxErr b v e => exact decodeReceive_packReceive true e v b
  | rxEos b v => exact decodeReceive_packReceive false true v b
  | rxByte b => exact decodeReceive_packReceive false false true b
  | rxIdle b => exact decodeReceive_packReceive false false false b

/-- Settles O3: the instruction is written with the fields it was decoded from, which make up the word. -/
theorem encodeOfDecodeIsTheWord : Obligations.EncodeOfDecodeIsTheWord := by
  intro w
  cases w with
  | command w =>
    have hrow := wellFormed_encode_commandOf (opField w) (addrField w) (lenField w) (dataField w)
    rwa [packCommand_fields] at hrow
  | receive w => exact wellFormed_encode_decodeReceive w

/-! ### The byte form (log 10) -/

/-- The bytes of a word decode to the word's instruction: they are of the port's length and leave the padding 0. -/
theorem decode_toBytes (w : PortWord) : decode w.port w.toBytes = .ok (decodeWord w) := by
  cases w with
  | command w =>
    have hlt := w.isLt
    have hnat : natOfBytes (bytesOfNat 14 w.toNat) = w.toNat := natOfBytes_bytesOfNat _ _ (by omega)
    simp [decode, PortWord.port, PortWord.toBytes, decodeWord, hnat, hlt]
  | receive w =>
    have hlt := w.isLt
    have hnat : natOfBytes (bytesOfNat 2 w.toNat) = w.toNat := natOfBytes_bytesOfNat _ _ (by omega)
    simp [decode, PortWord.port, PortWord.toBytes, decodeWord, hnat, hlt]

/-- Bytes of length `n` whose number fits `k` bits are the bytes of the `k`-bit word with that number. -/
theorem bytesOfNat_ofNat {n k : Nat} {bytes : List Byte} (hlen : bytes.length = n) (hfit : natOfBytes bytes < 2 ^ k) :
    bytesOfNat n (BitVec.ofNat k (natOfBytes bytes)).toNat = bytes := by
  rw [BitVec.toNat_ofNat, Nat.mod_eq_of_lt hfit, ← hlen, bytesOfNat_natOfBytes]

/-- Bytes that decode are the bytes of a word of the port. -/
theorem exists_word_of_decode {port : Port} {bytes : List Byte} {i : Instr} (h : decode port bytes = .ok i) :
    ∃ w : PortWord, w.port = port ∧ w.toBytes = bytes ∧ decodeWord w = i := by
  unfold decode at h
  cases port with
  | command =>
    simp only at h
    split_ifs at h with hlen hpad
    exact ⟨.command _, rfl, bytesOfNat_ofNat (not_not.mp hlen) (Nat.lt_of_not_le hpad), Except.ok.inj h⟩
  | receive =>
    simp only at h
    split_ifs at h with hlen hpad
    exact ⟨.receive _, rfl, bytesOfNat_ofNat (not_not.mp hlen) (Nat.lt_of_not_le hpad), Except.ok.inj h⟩

/-- Settles O4: accepted bytes are a word's, and the word is the instruction's (O3); the bytes of its word give it back (O2). -/
theorem byteDecoderAcceptsExactlyTheEncodings : Obligations.ByteDecoderAcceptsExactlyTheEncodings := by
  intro port bytes i
  constructor
  · intro h
    obtain ⟨w, hport, hbytes, rfl⟩ := exists_word_of_decode h
    obtain ⟨hwf, hword⟩ := encodeOfDecodeIsTheWord w
    exact ⟨hwf, by rw [hword, hport], by rw [hword, hbytes]⟩
  · rintro ⟨hwf, rfl, rfl⟩
    rw [decode_toBytes, decodeOfEncodeIsTheInstruction i hwf]

/-- Settles O1: the decoder evaluates on each word. -/
theorem writtenOutWordsDecode : Obligations.WrittenOutWordsDecode := by
  unfold Obligations.WrittenOutWordsDecode
  decide

/-! ### A placed word (R93, log 2) -/

/-- The idle value of the receive port decodes to an RX_IDLE. -/
theorem decodeReceive_zero : decodeReceive 0 = .rxIdle 0 := by decide

/-- An instruction's word stands on the port of the unit the instruction belongs to. -/
theorem encode_port (i : Instr) : (encode i).port = if i.isCommand then .command else .receive := by
  cases i <;> rfl

/-- Settles O8: the placed row presents the word alone on its port, and the step runs what the two ports decode to (O7), which is
the instruction (O2) and the idle value of the other port. -/
theorem placedInstructionRuns : Obligations.PlacedInstructionRuns := by
  intro i s hwf t
  have hdecode : decodeWord (encode i) = i := decodeOfEncodeIsTheInstruction i hwf
  have hport := encode_port i
  have hnow : t.now = portRow (encode i) := s.placeWord_now _
  have hrst : t.now.rst = false := by
    rw [hnow]
    cases encode i <;> rfl
  obtain ⟨hcommand, hreceive⟩ := State.stepRunsTheDecodedInstructions t hrst
  cases hword : encode i with
  | command w =>
    rw [hword] at hdecode hport hnow
    have hstep := hcommand (congrArg Inputs.cmdValid hnow)
    have hcmdWord : decodeCommand t.now.cmdWord = i := by rwa [hnow]
    have hrxWord : decodeReceive t.now.rxWord = .rxIdle 0 := by rw [hnow]; exact decodeReceive_zero
    rw [hcmdWord, hrxWord] at hstep
    refine ⟨fun _ => hstep, fun hi => ?_⟩
    simp [hi, PortWord.port] at hport
  | receive w =>
    rw [hword] at hdecode hport hnow
    have hstep := hreceive (congrArg Inputs.cmdValid hnow)
    have hrxWord : decodeReceive t.now.rxWord = i := by rwa [hnow]
    rw [hrxWord] at hstep
    refine ⟨fun hi => ?_, fun _ => hstep⟩
    simp [hi, PortWord.port] at hport

/-! ### Frames (R83, R96) -/

/-- The LENGTH byte of an assembled frame is the number of its DATA bytes. -/
theorem assemble_length_byte (a : Byte) {d : List Byte} (hd : d.length ≤ 8) : ((assemble a d).getD 2 0).toNat = d.length := by
  have hbyte : (assemble a d).getD 2 0 = BitVec.ofNat 8 d.length := rfl
  rw [hbyte, BitVec.toNat_ofNat]
  omega

/-- The covered bytes stand in front of a frame's last two bytes (R77). -/
theorem frameHead_append_take (a : Byte) (d t : List Byte) : (frameHead a d ++ t).take (3 + d.length) = frameHead a d :=
  List.take_left' (by simp [Nat.add_comm])

/-- Behind the covered bytes stand the checksum and ETX. -/
theorem frameHead_append_getD (a : Byte) (d : List Byte) (c e : Byte) :
    (frameHead a d ++ [c, e]).getD (3 + d.length) 0 = c ∧ (frameHead a d ++ [c, e]).getD (4 + d.length) 0 = e := by
  have hlen : 3 + d.length = (frameHead a d).length := by simp [Nat.add_comm]
  have hnext : 4 + d.length = (frameHead a d).length + 1 := by omega
  rw [hnext, hlen]
  simp

/-- An assembled frame of at most 8 DATA bytes is well formed (R97). -/
theorem wellFormedFrame_assemble (a : Byte) {d : List Byte} (hd : d.length ≤ 8) : wellFormedFrame (assemble a d) := by
  obtain ⟨hcks, hetx⟩ := frameHead_append_getD a d (cks8 (frameHead a d)) Config.etx
  unfold wellFormedFrame
  rw [assemble_length_byte a hd, assemble_length, assemble, frameHead_append_take]
  exact ⟨Nat.le_add_left _ _, rfl, hd, rfl, hcks, hetx⟩

/-- A well-formed frame is assembled from its ADDRESS and the bytes between its LENGTH and its checksum. -/
theorem exists_assemble_of_wellFormedFrame {f : List Byte} (h : wellFormedFrame f) :
    ∃ (a : Byte) (d : List Byte), d.length ≤ 8 ∧ f = assemble a d := by
  obtain ⟨hmin, hstx, hle, hlen, hcks, hetx⟩ := h
  match f with
  | stx :: a :: l :: rest =>
    change stx = Config.stx at hstx
    change l.toNat ≤ 8 at hle
    replace hlen : rest.length = l.toNat + 2 := by simpa using hlen
    obtain ⟨c, e, htail⟩ := List.length_eq_two.mp (show (rest.drop l.toNat).length = 2 by simp [hlen])
    have hrest : rest = rest.take l.toNat ++ [c, e] := by rw [← htail, List.take_append_drop]
    generalize hd : rest.take l.toNat = d at hrest
    have hl : l.toNat = d.length := by simp [← hd, hlen]
    have hframe : stx :: a :: l :: rest = frameHead a d ++ [c, e] := by simp [frameHead, hstx, ← hl, hrest]
    obtain ⟨hc, he⟩ := frameHead_append_getD a d c e
    have hlenByte : (stx :: a :: l :: rest).getD 2 0 = l := rfl
    rw [hlenByte, hl, hframe] at hcks hetx
    rw [hc, frameHead_append_take] at hcks
    rw [he] at hetx
    exact ⟨a, d, hl ▸ hle, by rw [hframe, hcks, hetx]; rfl⟩

/-- Settles O17: a well-formed frame is the assembly of its fields, and an assembled frame has the fields of R83. -/
theorem wellFormedFramesAreTheAssembledOnes : Obligations.WellFormedFramesAreTheAssembledOnes := by
  intro f
  refine ⟨exists_assemble_of_wellFormedFrame, ?_⟩
  rintro ⟨a, d, hd, rfl⟩
  exact wellFormedFrame_assemble a hd

/-- A held frame has as many DATA bytes as its length register says, up to the 8 of its DATA register. -/
theorem prefixBytes_length_of_le (v : Bytes 8) {n : Nat} (h : n ≤ 8) : (prefixBytes v n).length = n := by
  simp [h]

/-- A frame of at most 8 DATA bytes fits the four bits of the length outputs (R29, R30). -/
theorem flen_toNat (a : Byte) (v : Bytes 8) {len : BitVec 4} (h : len.toNat ≤ 8) :
    (len + 5).toNat = (assemble a (prefixBytes v len.toNat)).length := by
  rw [assemble_length, prefixBytes_length_of_le v h]
  simp
  omega

/-- Settles O18: the invariants hold the lengths to 8 (R44, R40), so the held fields assemble to well-formed frames. -/
theorem presentedFramesAreWellFormed : Obligations.PresentedFramesAreWellFormed := by
  intro s h z
  have hwf (a : Byte) (v : Bytes 8) {n : Nat} (hn : n ≤ 8) : wellFormedFrame (assemble a (prefixBytes v n)) :=
    wellFormedFrame_assemble a ((prefixBytes_length_of_le v hn).trans_le hn)
  refine ⟨hwf _ _ h.rxfLen_le, flen_toNat _ _ h.rxfLen_le, fun k hk => padBytes_getElem _ _ k hk, fun e he => ?_, fun e he => ?_,
    fun hempty => ?_⟩
  · obtain ⟨hlen, -⟩ := z.txq e he
    exact hwf _ _ hlen
  · obtain ⟨rest, hq⟩ := List.head?_eq_some_iff.mp he
    obtain ⟨hlen, -⟩ := z.txq e (List.mem_of_mem_head? he)
    have hflen : s.outputs.txFlen = e.len + 5 := by simp [State.outputs, outputsWith, txFlen, hq]
    have hframe : s.outputs.txFrame = padBytes 13 e.frame := by simp [State.outputs, outputsWith, txFrame, hq]
    rw [hflen, hframe]
    exact ⟨flen_toNat _ _ hlen, fun k hk => padBytes_getElem _ _ k hk⟩
  · simp [State.outputs, outputsWith, txFlen, txFrame, hempty]

/-! ### Operands that are not read (R86) -/

/-- The first `n` bytes of a register are read from its first `n` indices only. -/
theorem prefixBytes_congr {m n : Nat} {v w : Bytes m} (h : ∀ (k : Nat) (hk : k < m), k < n → v[k] = w[k]) :
    prefixBytes v n = prefixBytes w n := by
  refine List.ext_getElem (by simp) fun k hkv hkw => ?_
  rw [prefixBytes_length] at hkv
  simpa [prefixBytes] using h k (by omega) (by omega)

/-- BUILD and SEND read `data` up to `len`, and not at all when `len` is above 8. -/
theorem payloadOperand_congr {l : Byte} {d d' : Bytes 11}
    (h : ∀ (k : Nat) (hk : k < 11), k < l.toNat → l.toNat ≤ 8 → d[k] = d'[k]) : payloadOperand l d = payloadOperand l d' := by
  by_cases hl : l.toNat ≤ 8
  · rw [payloadOperand_of_le d hl, payloadOperand_of_le d' hl, prefixBytes_congr fun k hk hkl => h k hk hkl hl]
  · rw [payloadOperand_of_gt d (Nat.lt_of_not_le hl), payloadOperand_of_gt d' (Nat.lt_of_not_le hl)]

/-- CKSUM reads `data` up to `len`, and not at all when `len` is above 11. -/
theorem cksumOperand_congr {l : Byte} {d d' : Bytes 11}
    (h : ∀ (k : Nat) (hk : k < 11), k < l.toNat → l.toNat ≤ 11 → d[k] = d'[k]) : cksumOperand l d = cksumOperand l d' := by
  by_cases hl : l.toNat ≤ 11
  · rw [cksumOperand_of_le d hl, cksumOperand_of_le d' hl, prefixBytes_congr fun k hk hkl => h k hk hkl hl]
  · rw [cksumOperand_of_gt d (Nat.lt_of_not_le hl), cksumOperand_of_gt d' (Nat.lt_of_not_le hl)]

/-- Settles O26: the writes of a command depend on the operand its opcode assembles, those of a receive event on its class. -/
theorem unreadOperandsHaveNoEffect : Obligations.UnreadOperandsHaveNoEffect := by
  intro a a' l l' d d' op s
  refine ⟨rfl, rfl, rfl, rfl, fun h => ?_, fun h => ?_, fun h => ?_, fun h => ?_, fun b b' v v' e => ⟨rfl, rfl, rfl⟩⟩
  · simp only [exec, execClrst, clrstWrites, maskOperand, h]
  · simp only [exec, execCksum, cksumWrites, cksumOperand_congr h]
  · simp only [exec, execBuild, execSend, buildWrites, sendWrites, payloadOperand_congr h, and_self]
  · simp only [exec, execBuild, execSend, buildWrites, sendWrites, payloadOperand_of_gt _ h, and_self]

/-! ### The reader's events (R91) -/

/-- Each reader event has its own code. -/
theorem rdEvent_code_injective : Function.Injective RdEvent.code := by
  intro e e' h
  revert h
  cases e <;> cases e' <;> decide

@[simp] theorem byteInStx_event {p : Params} (b : Byte) (s : Engine p) :
    (byteInStx b s).event = if b = Config.stx then .none else .badStx := by
  unfold byteInStx; split <;> rfl

@[simp] theorem byteInLen_event {p : Params} (b : Byte) (s : Engine p) :
    (byteInLen b s).event = if b.toNat ≤ 8 then .none else .lenFallback := by
  unfold byteInLen; split <;> rfl

@[simp] theorem byteInCks_event {p : Params} (b : Byte) (s : Engine p) :
    (byteInCks b s).event = if b = expectedCksum p s.rd then .none else .badCksum := by
  unfold byteInCks; split <;> rfl

@[simp] theorem byteInEtx_event {p : Params} (b : Byte) (s : Engine p) :
    (byteInEtx b s).event = if b = Config.etx then .frame else .badEtx := by
  unfold byteInEtx; split <;> rfl

/-- The events a byte can raise, each with its cause (R108 to R117), state by state; a byte raises no stream event. -/
theorem byteRule_event_iff {p : Params} (b : Byte) (s : Engine p) :
    ((byteRule b s).event = .badStx ↔ s.rd.state = .stx ∧ b ≠ Config.stx)
    ∧ ((byteRule b s).event = .lenFallback ↔ s.rd.state = .len ∧ 8 < b.toNat)
    ∧ ((byteRule b s).event = .badCksum ↔ s.rd.state = .cks ∧ b ≠ expectedCksum p s.rd)
    ∧ ((byteRule b s).event = .badEtx ↔ s.rd.state = .etx ∧ b ≠ Config.etx)
    ∧ ((byteRule b s).event = .frame ↔ s.rd.state = .etx ∧ b = Config.etx)
    ∧ (byteRule b s).event ≠ .closed ∧ (byteRule b s).event ≠ .ioErr := by
  unfold byteRule
  split
  case h_1 hst => by_cases hb : b = 15#8 <;> simp [hst, hb]
  case h_2 hst => simp [byteInAddr, rdNothing, hst]
  case h_3 hst => by_cases hb : b.toNat ≤ 8 <;> simp [hst, hb, Nat.lt_of_not_le]
  case h_4 hst => simp [byteInData, rdNothing, hst]
  case h_5 hst => by_cases hb : b = expectedCksum p s.rd <;> simp [hst, hb]
  case h_6 hst => by_cases hb : b = 4#8 <;> simp [hst, hb]
  case h_7 hst => simp [rdNothing, hst]

/-- The stream events of a cycle with the link up: a read failure wins over an end of stream (R105). -/
theorem rdStep_streamEvent_iff {p : Params} (i : Inputs) (s : Engine p) :
    ((rdStep i s).event = .closed ↔ i.linkUp = true ∧ i.rxErr = false ∧ i.rxEos = true)
    ∧ ((rdStep i s).event = .ioErr ↔ i.linkUp = true ∧ i.rxErr = true) := by
  obtain ⟨-, -, -, -, -, hclosed, hioErr⟩ := byteRule_event_iff i.rxByte s
  rw [rdStep_event]
  split_ifs with hlink herr heos <;> simp_all

/-- Any other event is that of a byte which transfers to an open reader (R103). -/
theorem rdStep_byteEvent_iff {p : Params} {i : Inputs} (s : Engine p) (hrst : i.rst = false) {e : RdEvent} (hnone : e ≠ .none)
    (hclosed : e ≠ .closed) (hioErr : e ≠ .ioErr) :
    (rdStep i s).event = e ↔
      (i.linkUp = true ∧ i.rxErr = false ∧ i.rxEos = false ∧ s.rd.closed = false ∧ i.rxValid = true ∧ s.rxf.valid = false)
        ∧ (byteRule i.rxByte s).event = e := by
  have hxfer : rxXfer i s = true ↔ i.rxValid = true ∧ s.rxf.valid = false := by simp [rxXfer, rxReady, hrst]
  rw [rdStep_event]
  split_ifs with hlink herr heos hshut hdrain htransfer
  · simp [hlink, hnone.symm]
  · simp [herr, hioErr.symm]
  · simp [heos, hclosed.symm]
  · simp [hshut, hnone.symm]
  · simp [byteRule, hdrain, rdNothing, hnone.symm]
  · simp_all
  · exact iff_of_false hnone.symm fun ⟨⟨_, _, _, _, hvalid, hfree⟩, _⟩ => htransfer (hxfer.mpr ⟨hvalid, hfree⟩)

/-- Settles O43: the code names the event, a byte's event has the cause of its byte rule. -/
theorem readerEventNamesItsCause : Obligations.ReaderEventNamesItsCause := by
  intro s hrst ev active b
  have hcode (e : RdEvent) : ev = e.code ↔ (rdStep s.now s.toEngine).event = e := by
    have hev : ev = (rdStep s.now s.toEngine).event.code := by simp [ev, State.outputs, outputsWith, evRd, hrst]
    rw [hev, rdEvent_code_injective.eq_iff]
  have hbyte (e : RdEvent) (hnone : e ≠ .none) (hclosed : e ≠ .closed) (hioErr : e ≠ .ioErr) :
      ev = e.code ↔ active ∧ (byteRule b s.toEngine).event = e :=
    (hcode e).trans (rdStep_byteEvent_iff s.toEngine hrst hnone hclosed hioErr)
  obtain ⟨hbadStx, hlenFallback, hbadCksum, hbadEtx, hframe, -, -⟩ := byteRule_event_iff b s.toEngine
  obtain ⟨hclosed, hioErr⟩ := rdStep_streamEvent_iff s.now s.toEngine
  exact ⟨(hbyte .badStx nofun nofun nofun).trans (and_congr_right' hbadStx),
    (hbyte .lenFallback nofun nofun nofun).trans (and_congr_right' hlenFallback),
    (hbyte .badCksum nofun nofun nofun).trans (and_congr_right' hbadCksum),
    (hbyte .badEtx nofun nofun nofun).trans (and_congr_right' hbadEtx),
    (hcode .closed).trans hclosed, (hcode .ioErr).trans hioErr,
    (hbyte .frame nofun nofun nofun).trans (and_congr_right' hframe)⟩

/-! ### Bytes over the receive port, with idle cycles between them (R102, R122)

`Reads s bytes evs t`: the bytes, taken one after the other by the byte rules alone, raise the events `evs` and lead from `s` to
`t`, the sticky bits aside. -/

/-- A reader that takes every byte offered and that an idle cycle leaves as it is: open, not draining, with no frame waiting. -/
structure Listening {p : Params} (s : Engine p) : Prop where
  isOpen : s.rd.closed = false
  notDraining : s.rd.state ≠ .drain
  free : s.rxf.valid = false

/-- A byte sequence read by the byte rules, each byte while the reader listens. -/
inductive Reads {p : Params} : Engine p → List Byte → List (BitVec 3) → Engine p → Prop where
  | nil (s : Engine p) : Reads s [] [] s
  | cons {s t : Engine p} {b : Byte} {bytes : List Byte} {ev : BitVec 3} {evs : List (BitVec 3)} {w : RdWrites}
      (listening : Listening s) (rule : byteRule b s = w) (event : w.event.code = ev)
      (rest : Reads { s with rd := w.rd, rxf := w.rxf } bytes evs t) : Reads s (b :: bytes) (ev :: evs) t

/-- A byte rule reads the reader's registers and the output register only. -/
theorem byteRule_congr {p : Params} {s t : Engine p} (b : Byte) (hrd : s.rd = t.rd) (hrxf : s.rxf = t.rxf) :
    byteRule b s = byteRule b t :=
  calc byteRule b s
      = byteRule b { t with rd := s.rd, rxf := s.rxf } := rfl
    _ = byteRule b t := by rw [hrd, hrxf]

/-- A script whose first cycle is idle has a byte to come. -/
theorem scriptOf_idle {script : List (Option Byte)} {bytes : List Byte} (h : scriptOf (none :: script) bytes) :
    scriptOf script bytes ∧ bytes ≠ [] := by
  obtain ⟨hbytes, hlast⟩ := h
  have hbytes : script.filterMap id = bytes := hbytes
  cases hend : script.getLast? with
  | none => simp [List.getLast?_cons, hend] at hlast
  | some o =>
    cases o with
    | none => simp [List.getLast?_cons, hend] at hlast
    | some b =>
      have hmem : b ∈ bytes := hbytes ▸ List.mem_filterMap.mpr ⟨some b, List.mem_of_getLast? hend, rfl⟩
      exact ⟨⟨hbytes, by simp [hend]⟩, List.ne_nil_of_mem hmem⟩

/-- A script whose first cycle offers a byte goes on with a script of the other bytes. -/
theorem scriptOf_byte {script : List (Option Byte)} {bytes : List Byte} {b : Byte} (h : scriptOf (some b :: script) bytes) :
    ∃ rest, bytes = b :: rest ∧ scriptOf script rest := by
  obtain ⟨hbytes, hlast⟩ := h
  refine ⟨script.filterMap id, hbytes.symm, rfl, fun hend => hlast ?_⟩
  simp [List.getLast?_cons, hend]

/-- What the cycles of a script make of the reader and the output register is what the byte rules make of its bytes; idle cycles
add code 0 to the events, in front of a byte's. By induction on the script. -/
theorem after_script {p : Params} {script : List (Option Byte)} {bytes : List Byte} {evs : List (BitVec 3)} {s t u : Engine p}
    (hread : Reads t bytes evs u) (hrd : s.rd = t.rd) (hrxf : s.rxf = t.rxf) (hscript : scriptOf script bytes)
    (hcarries : carries script s = true) :
    (after script.length s).rd = u.rd ∧ (after script.length s).rxf = u.rxf
      ∧ (events script.length s).filter (· ≠ 0) = evs.filter (· ≠ 0)
      ∧ (events script.length s).getLast? = evs.getLast? := by
  induction script generalizing bytes evs s t with
  | nil =>
    obtain ⟨rfl, -⟩ := hscript
    cases hread
    exact ⟨hrd, hrxf, rfl, rfl⟩
  | cons o script ih =>
    cases o with
    | none =>
      obtain ⟨hidle, hrest⟩ : idles s = true ∧ carries script (advance s) = true := by simpa [carries] using hcarries
      obtain ⟨hscript, hbytes⟩ := scriptOf_idle hscript
      cases hread with
      | nil => exact absurd rfl hbytes
      | cons hlisten hrule hevent hnext =>
        obtain ⟨hrd', hrxf', hev⟩ :=
          advance_of_idle hidle (hrd ▸ hlisten.isOpen) (hrd ▸ hlisten.notDraining) (hrxf ▸ hlisten.free)
        obtain ⟨hend, hendf, hfilter, hlast⟩ :=
          ih (.cons hlisten hrule hevent hnext) (hrd'.trans hrd) (hrxf'.trans hrxf) hscript hrest
        refine ⟨hend, hendf, ?_, ?_⟩
        · simpa [events, hev] using hfilter
        · simp [events, List.getLast?_cons, hlast]
    | some b =>
      obtain ⟨hoffer, hrest⟩ : offers s b = true ∧ carries script (advance s) = true := by simpa [carries] using hcarries
      obtain ⟨rest, rfl, hscript'⟩ := scriptOf_byte hscript
      cases hread with
      | cons hlisten hrule hevent hnext =>
        obtain ⟨hrd', hrxf', hev⟩ := advance_of_offer hoffer (hrd ▸ hlisten.isOpen) (hrxf ▸ hlisten.free)
        rw [byteRule_congr b hrd hrxf, hrule] at hrd' hrxf' hev
        rw [hevent] at hev
        obtain ⟨hend, hendf, hfilter, hlast⟩ := ih hnext hrd' hrxf' hscript' hrest
        refine ⟨hend, hendf, ?_, ?_⟩
        · simp only [List.length_cons, events, hev, List.filter_cons, hfilter]
        · simp only [List.length_cons, events, hev, List.getLast?_cons, hlast]

/-! ### The fallback short form (R80, R111, R113, R116) -/

section ByteRules

variable {p : Params} {s : Engine p}

theorem byteRule_stx (hst : s.rd.state = .stx) :
    byteRule Config.stx s = { rdNothing s with rd := { s.rd with state := .addr } } := by
  simp [byteRule, hst, byteInStx]

theorem byteRule_addr (hst : s.rd.state = .addr) (b : Byte) :
    byteRule b s = { rdNothing s with rd := { s.rd with addr := b, state := .len } } := by
  simp [byteRule, hst, byteInAddr]

theorem byteRule_fallback (hst : s.rd.state = .len) {b : Byte} (hb : 8 < b.toNat) :
    byteRule b s =
      { rdNothing s with
        rd := { s.rd with data := s.rd.data.set 0 b, len := 1, cnt := 1, fb := true, state := .cks }
        event := .lenFallback
        set := Sticky.lenFallback } := by
  simp [byteRule, hst, byteInLen, Nat.not_le.mpr hb]

theorem byteRule_cks (hst : s.rd.state = .cks) {b : Byte} (hb : b = expectedCksum p s.rd) :
    byteRule b s = { rdNothing s with rd := { s.rd with state := .etx } } := by
  simp [byteRule, hst, byteInCks, hb]

theorem byteRule_etx (hst : s.rd.state = .etx) :
    byteRule Config.etx s =
      { rd := { s.rd.clear with state := .stx }
        rxf := { valid := true, addr := s.rd.addr, len := s.rd.len, data := s.rd.data }
        event := .frame
        set := 0 } := by
  simp [byteRule, hst, byteInEtx]

end ByteRules

theorem prefixBytes_one (v : Bytes 8) : prefixBytes v 1 = [v[0]] := by
  refine List.ext_getElem (by simp) fun k hk _ => ?_
  have hk : k = 0 := by simp at hk; omega
  subst hk
  simp [prefixBytes]

/-- The checksum of the short form covers what `P_FALLBACK_CKSUM` says (R14, R113). -/
theorem expectedCksum_fallback (p : Params) {r : Reader} (hfb : r.fb = true) (hlen : r.len = 1) :
    expectedCksum p r =
      if p.fallbackCksum = .raw then cks8 [0x0F, r.addr, r.data[0]] else cks8 [0x0F, r.addr, 0x01, r.data[0]] := by
  have hpayload : r.payload = [r.data[0]] := by
    rw [Reader.payload, hlen]
    exact prefixBytes_one r.data
  rw [expectedCksum, hfb, hlen, hpayload]
  simp

/-- The five bytes of the short form, read from `S_STX`: LEN_FALLBACK at the byte in place of LENGTH, FRAME at ETX. -/
theorem reads_fallback {p : Params} {s : Engine p} (hlisten : Listening s) (hst : s.rd.state = .stx) (a : Byte) {d₀ : Byte}
    (hd : 8 < d₀.toNat) :
    let c := if p.fallbackCksum = .raw then cks8 [0x0F, a, d₀] else cks8 [0x0F, a, 0x01, d₀]
    Reads s [0x0F, a, d₀, c, 0x04] [0, 0, 2, 0, 7]
      { s with
        rd := { s.rd.clear with state := .stx }
        rxf := { valid := true, addr := a, len := 1, data := s.rd.data.set 0 d₀ } } := by
  obtain ⟨hopen, -, hfree⟩ := hlisten
  intro c
  have hc : c = expectedCksum p
      { s.rd with addr := a, data := s.rd.data.set 0 d₀, len := 1, cnt := 1, fb := true, state := .cks } := by
    rw [expectedCksum_fallback p rfl rfl, Vector.getElem_set_self]
  refine .cons ⟨hopen, by simp [hst], hfree⟩ (byteRule_stx hst) rfl ?_
  refine .cons ⟨hopen, nofun, hfree⟩ (byteRule_addr rfl a) rfl ?_
  refine .cons ⟨hopen, nofun, hfree⟩ (byteRule_fallback rfl hd) rfl ?_
  refine .cons ⟨hopen, nofun, hfree⟩ (byteRule_cks rfl hc) rfl ?_
  exact .cons ⟨hopen, nofun, hfree⟩ (byteRule_etx rfl) rfl (.nil _)

/-- Settles O56: the script's cycles do what the byte rules do with the five bytes, and the delivered DATA register is `[D0]`. -/
theorem fallbackShortFormIsDeliveredNormalized : Obligations.FallbackShortFormIsDeliveredNormalized := by
  intro p s a d₀ script hd _ hst hopen hfree c hscript hcarries t
  have hread := reads_fallback ⟨hopen, by simp [hst], hfree⟩ hst a hd
  obtain ⟨hrd, hrxf, hevents, hlast⟩ := after_script hread rfl rfl hscript hcarries
  have hframe : t.rxf.frame = assemble a [d₀] := by
    rw [hrxf]
    exact congrArg (assemble a) ((prefixBytes_one _).trans (by rw [Vector.getElem_set_self]))
  exact ⟨by rw [hrd], by rw [hrxf], hframe, hevents, hlast⟩

end Sys2Proof.Proofs.Encoding
end

section
/-! PROOFS. The Frame Codec of 40_codec.md: the checksum (R94, R95), assembled frames (R96, R97), the commands BUILD and CKSUM
(R98, R99), and the round trip through the reader (R102). -/

namespace Sys2Proof.Proofs.Codec

open Sys2Proof.Machine Sys2Proof.Proofs.Encoding

/-! ### The checksum (R94, R95) -/

/-- Settles O14: masking with `0xFF` is the remainder modulo 256. -/
theorem checksumFormsAgree : Obligations.ChecksumFormsAgree := by
  intro s
  have hmask (n : Nat) : n &&& 0xFF = n % 256 := Nat.and_two_pow_sub_one_eq_mod n 8
  rw [hmask, hmask]
  exact ⟨cks8_toNat s, cks8_toNat s⟩

/-- The checksum completes the sum of the covered bytes to 0 modulo 256. -/
theorem sumBytes_add_cks8 (s : List Byte) : (sumBytes s + (cks8 s).toNat) % 256 = 0 := (eq_cks8_iff s _).mp rfl

theorem cks8_eq_zero_iff (s : List Byte) : cks8 s = 0 ↔ sumBytes s % 256 = 0 := eq_comm.trans (eq_cks8_iff s 0)

/-- The order of the bytes does not change their sum. -/
theorem sumBytes_perm {s t : List Byte} (h : s.Perm t) : sumBytes s = sumBytes t := by
  induction h with
  | nil => rfl
  | cons b _ ih => rw [sumBytes_cons, sumBytes_cons, ih]
  | swap b c s => exact Nat.add_left_comm _ _ _
  | trans _ _ ih₁ ih₂ => exact ih₁.trans ih₂

/-- The checksum is a function of the sum. -/
theorem cks8_perm {s t : List Byte} (h : s.Perm t) : cks8 s = cks8 t := by
  rw [cks8, cks8, sumBytes_perm h]

/-- One more in a byte is one less in the checksum, also where they wrap. -/
theorem cks8_add_one (u v : List Byte) (b : Byte) : cks8 (u ++ (b + 1) :: v) = cks8 (u ++ b :: v) - 1 := by
  have hsum := sumBytes_add_cks8 (u ++ b :: v)
  refine ((eq_cks8_iff _ _).mpr ?_).symm
  simp only [sumBytes_append, sumBytes_cons, BitVec.toNat_add, BitVec.toNat_sub] at hsum ⊢
  omega

/-- The bytes of a frame from STX to CHECKSUM. -/
theorem assemble_take_checksum (a : Byte) (d : List Byte) :
    (assemble a d).take (d.length + 4) = frameHead a d ++ [cks8 (frameHead a d)] := by
  rw [assemble, List.append_cons]
  exact List.take_left' (by simp)

/-- Settles O15: each law follows from the one that the checksum completes the sum to 0 modulo 256. -/
theorem checksumLaws : Obligations.ChecksumLaws := by
  refine ⟨fun s => ⟨Nat.le_of_lt_succ (cks8 s).isLt, cks8_eq_zero_iff s, sumBytes_add_cks8 s⟩, rfl, fun a d _ => ?_,
    fun _ _ => cks8_perm, cks8_add_one⟩
  rw [assemble_take_checksum, sumBytes_append]
  exact sumBytes_add_cks8 (frameHead a d)

/-! ### Assembled frames (R96, R97) -/

/-- The checksum byte of a frame. -/
theorem assemble_getD_checksum (a : Byte) (d : List Byte) : (assemble a d).getD (3 + d.length) 0 = cks8 (frameHead a d) :=
  (frameHead_append_getD a d _ _).1

/-- DATA stands behind LENGTH. -/
theorem assemble_data (a : Byte) (d : List Byte) : ((assemble a d).drop 3).take d.length = d := List.take_left' rfl

/-- ADDRESS and DATA are parts of the covered bytes, and two bytes follow those in every frame. -/
theorem assemble_injective {a b : Byte} {d e : List Byte} (h : assemble a d = assemble b e) : a = b ∧ d = e := by
  have hhead : frameHead a d = frameHead b e := List.append_inj_left' h rfl
  simp only [frameHead, List.cons.injEq, true_and] at hhead
  exact ⟨hhead.1, hhead.2.2⟩

/-- Settles O16: the fields by their places in the frame; well-formedness gives those of LENGTH, CHECKSUM and ETX. -/
theorem assembleLaws : Obligations.AssembleLaws := by
  refine ⟨fun a d hd => ?_, fun _ _ _ _ _ _ h => assemble_injective h⟩
  obtain ⟨-, -, -, -, hcks, hetx⟩ := wellFormedFrame_assemble a hd
  rw [assemble_length_byte a hd] at hcks hetx
  exact ⟨assemble_length a d, rfl, rfl, assemble_length_byte a hd, assemble_data a d, hcks, hetx, wellFormedFrame_assemble a hd⟩

/-! ### BUILD and CKSUM (R98, R99) -/

/-- A frame padded to the result register, by the place of each byte: zeros follow the frame (R98, R126). -/
theorem padBytes_eq_ofFn {n m : Nat} (f : List Byte) (hlen : f.length = m) :
    padBytes n f = Vector.ofFn fun k => if k.val < m then f.getD k.val 0 else 0 := by
  ext k hk
  by_cases hkm : k < m
  · simp [hkm]
  · simp [hkm, List.getElem?_eq_none (show f.length ≤ k by omega)]

/-- The OK result of BUILD and SEND in terms of the frame (R98, R126). -/
theorem frameResult_eq (op : BitVec 4) (a : Byte) {d : List Byte} {n : Nat} (hlen : d.length = n) :
    frameResult op a d =
      { valid := true, op := op, code := .ok, cks := (assemble a d).getD (3 + n) 0, flen := BitVec.ofNat 4 (n + 5)
        frame := Vector.ofFn fun k => if k.val < n + 5 then (assemble a d).getD k.val 0 else 0 } := by
  subst hlen
  rw [assemble_getD_checksum, ← padBytes_eq_ofFn _ (assemble_length a d)]
  rfl

theorem buildWrites_of_le (a : Byte) {l : Byte} (d : Bytes 11) (h : l.toNat ≤ 8) :
    buildWrites a l d = completed (frameResult 0x1 a (prefixBytes d l.toNat)) := by
  rw [buildWrites, payloadOperand_of_le d h]

theorem buildWrites_of_gt (a : Byte) {l : Byte} (d : Bytes 11) (h : 8 < l.toNat) :
    buildWrites a l d = completed (plainResult 0x1 .payloadLen 0) := by
  rw [buildWrites, payloadOperand_of_gt d h]

theorem cksumWrites_of_le {l : Byte} (d : Bytes 11) (h : l.toNat ≤ 11) :
    cksumWrites l d = completed (plainResult 0x2 .ok (cks8 (prefixBytes d l.toNat))) := by
  rw [cksumWrites, cksumOperand_of_le d h]

theorem cksumWrites_of_gt {l : Byte} (d : Bytes 11) (h : 11 < l.toNat) :
    cksumWrites l d = completed (plainResult 0x2 .cksumLen 0) := by
  rw [cksumWrites, cksumOperand_of_gt d h]

/-- Settles O20: BUILD completes with the frame of its operand, or with E_PAYLOAD_LEN. -/
theorem buildReturnsTheFrame : Obligations.BuildReturnsTheFrame := by
  intro a l d s f
  refine ⟨fun hl => ?_, fun hl => ?_⟩
  · have hlen : (prefixBytes d l.toNat).length = l.toNat := by simp; omega
    rw [exec, execBuild, buildWrites_of_le a d hl, applyCu_completed_ok _ _ rfl, frameResult_eq 0x1 a hlen]
    rfl
  · rw [exec, execBuild, buildWrites_of_gt a d hl, applyCu_completed_err _ _ (by decide)]
    rfl

/-- Settles O21: CKSUM completes with the checksum of its operand, or with E_CKSUM_LEN. -/
theorem cksumReturnsTheChecksum : Obligations.CksumReturnsTheChecksum := by
  intro a l d s
  refine ⟨fun hl => ?_, fun hl => ?_⟩
  · rw [exec, execCksum, cksumWrites_of_le d hl, applyCu_completed_ok _ _ rfl]
    rfl
  · rw [exec, execCksum, cksumWrites_of_gt d hl, applyCu_completed_err _ _ (by decide)]
    rfl

/-! ### An assembled frame read by the reader (R102) -/

theorem reads_append {p : Params} {s t u : Engine p} {bytes bytes' : List Byte} {evs evs' : List (BitVec 3)}
    (h : Reads s bytes evs t) (h' : Reads t bytes' evs' u) : Reads s (bytes ++ bytes') (evs ++ evs') u := by
  induction h with
  | nil => exact h'
  | cons hlisten hrule hevent _ ih => exact .cons hlisten hrule hevent (ih h')

/-- The open reader holds ADDRESS `a`, a declared LENGTH `n` and the first DATA bytes `d`, and awaits the next DATA byte, or
CHECKSUM when it has all of them. -/
structure Holds (r : Reader) (a : Byte) (n : Nat) (d : List Byte) : Prop where
  isOpen : r.closed = false
  state : r.state = if d.length = n then .cks else .data
  addr : r.addr = a
  len : r.len = BitVec.ofNat 4 n
  cnt : r.cnt = BitVec.ofNat 4 d.length
  data : prefixBytes r.data d.length = d
  declared : r.fb = false

theorem Holds.notDraining {r : Reader} {a : Byte} {n : Nat} {d : List Byte} (h : Holds r a n d) : r.state ≠ .drain := by
  rw [h.state]
  split <;> nofun

/-- A declared LENGTH leaves the reader with no DATA byte yet (R110). -/
theorem byteRule_declared {p : Params} {s : Engine p} (hst : s.rd.state = .len) (hopen : s.rd.closed = false) {b : Byte}
    (hb : b.toNat ≤ 8) : ∃ r, Holds r s.rd.addr b.toNat [] ∧ byteRule b s = { rdNothing s with rd := r } := by
  refine ⟨_, ?_, by simp only [byteRule, hst, byteInLen, if_pos hb]; rfl⟩
  have hzero : b = 0 ↔ 0 = b.toNat := by rw [← BitVec.toNat_inj, eq_comm]; rfl
  exact ⟨hopen, by simp only [List.length_nil, hzero], rfl, by simp, rfl, rfl, rfl⟩

/-- A DATA byte is stored behind the others (R112). -/
theorem byteRule_data {p : Params} {s : Engine p} {a : Byte} {n : Nat} {d : List Byte} (h : Holds s.rd a n d)
    (hd : d.length < n) (hn : n ≤ 8) (b : Byte) :
    ∃ r, Holds r a n (d ++ [b]) ∧ byteRule b s = { rdNothing s with rd := r } := by
  have hst : s.rd.state = .data := by rw [h.state, if_neg (by omega)]
  have hcnt : s.rd.cnt.toNat = d.length := by rw [h.cnt, BitVec.toNat_ofNat]; omega
  have hlen : s.rd.len.toNat = n := by rw [h.len, BitVec.toNat_ofNat]; omega
  refine ⟨_, ?_, by simp only [byteRule, hst, byteInData]; rfl⟩
  constructor
  case isOpen => exact h.isOpen
  case state => simp [hcnt, hlen]
  case addr => exact h.addr
  case len => exact h.len
  case cnt => simp [h.cnt, BitVec.ofNat_add]
  case data =>
    simp only [hcnt, List.length_append, List.length_singleton]
    rw [prefixBytes_setIfInBounds _ _ _ (by omega), h.data]
  case declared => exact h.declared

/-- The DATA bytes that are still to come, read one after the other. -/
theorem reads_data {p : Params} {s : Engine p} {a : Byte} {n : Nat} {d : List Byte} (rest : List Byte) (h : Holds s.rd a n d)
    (hfree : s.rxf.valid = false) (hlen : d.length + rest.length = n) (hn : n ≤ 8) :
    ∃ r, Holds r a n (d ++ rest) ∧ Reads s rest (List.replicate rest.length 0) { s with rd := r } := by
  induction rest generalizing s d with
  | nil => exact ⟨s.rd, by rwa [List.append_nil], .nil s⟩
  | cons b rest ih =>
    simp only [List.length_cons] at hlen
    obtain ⟨r, hr, hrule⟩ := byteRule_data h (by omega) hn b
    obtain ⟨r', hr', hrest⟩ := ih (s := { s with rd := r }) hr hfree (by simp; omega)
    exact ⟨r', by simpa using hr', .cons ⟨h.isOpen, h.notDraining, hfree⟩ hrule rfl hrest⟩

/-- The checksum expected of a declared length is the one `assemble` puts into the frame (R113). -/
theorem Holds.expectedCksum {p : Params} {r : Reader} {a : Byte} {d : List Byte} (h : Holds r a d.length d) (hd : d.length ≤ 8) :
    expectedCksum p r = cks8 (frameHead a d) := by
  have hlen : r.len.toNat = d.length := by rw [h.len, BitVec.toNat_ofNat]; omega
  have hbyte : r.len.zeroExtend 8 = BitVec.ofNat 8 d.length := by rw [← hlen]; simp
  rw [Machine.expectedCksum, h.declared, Reader.payload, hlen, h.data, h.addr, hbyte]
  rfl

/-- STX, ADDRESS and LENGTH, read from `S_STX` (R108 to R110). -/
theorem reads_head {p : Params} {s : Engine p} (hlisten : Listening s) (hst : s.rd.state = .stx) (a : Byte) {l : Byte}
    (hl : l.toNat ≤ 8) : ∃ r, Holds r a l.toNat [] ∧ Reads s [Config.stx, a, l] [0, 0, 0] { s with rd := r } := by
  obtain ⟨hopen, -, hfree⟩ := hlisten
  obtain ⟨r, hr, hlen⟩ :=
    byteRule_declared (s := { s with rd := { s.rd with addr := a, state := .len } }) rfl hopen hl
  refine ⟨r, hr, ?_⟩
  refine .cons ⟨hopen, by simp [hst], hfree⟩ (byteRule_stx hst) rfl ?_
  refine .cons ⟨hopen, nofun, hfree⟩ (byteRule_addr rfl a) rfl ?_
  exact .cons ⟨hopen, nofun, hfree⟩ hlen rfl (.nil _)

/-- CHECKSUM and ETX, read when all DATA bytes are there: the frame's fields go to the output register (R114, R116). -/
theorem reads_end {p : Params} {s : Engine p} {a : Byte} {d : List Byte} (h : Holds s.rd a d.length d) (hd : d.length ≤ 8)
    (hfree : s.rxf.valid = false) :
    Reads s [cks8 (frameHead a d), Config.etx] [0, 7]
      { s with
        rd := { s.rd.clear with state := .stx }
        rxf := { valid := true, addr := s.rd.addr, len := s.rd.len, data := s.rd.data } } := by
  have hcks : s.rd.state = .cks := by rw [h.state, if_pos rfl]
  refine .cons ⟨h.isOpen, h.notDraining, hfree⟩ (byteRule_cks hcks (h.expectedCksum hd).symm) rfl ?_
  exact .cons ⟨h.isOpen, nofun, hfree⟩ (byteRule_etx rfl) rfl (.nil _)

/-- A frame read from `S_STX`: the only event is FRAME, at ETX, and the output register holds the frame's fields. -/
theorem reads_assemble {p : Params} {s : Engine p} (hlisten : Listening s) (hst : s.rd.state = .stx) (a : Byte) {d : List Byte}
    (hd : d.length ≤ 8) :
    ∃ r, Holds r a d.length d ∧
      Reads s (assemble a d) ([0, 0, 0] ++ List.replicate d.length 0 ++ [0, 7])
        { s with
          rd := { r.clear with state := .stx }
          rxf := { valid := true, addr := r.addr, len := r.len, data := r.data } } := by
  have hlen : (BitVec.ofNat 8 d.length).toNat = d.length := by rw [BitVec.toNat_ofNat]; omega
  obtain ⟨r₀, hr₀, hhead⟩ := reads_head hlisten hst a (hlen.trans_le hd)
  rw [hlen] at hr₀
  obtain ⟨r, hr, hdata⟩ := reads_data (s := { s with rd := r₀ }) d hr₀ hlisten.free (by simp) hd
  exact ⟨r, hr, reads_append (reads_append hhead hdata) (reads_end (s := { s with rd := r }) hr hd hlisten.free)⟩

theorem events_length {p : Params} (n : Nat) (s : Engine p) : (events n s).length = n := by
  induction n generalizing s with
  | zero => rfl
  | succ n ih => simp [events, ih]

/-- A list whose one nonzero entry is its last. -/
theorem eq_replicate_append_of_filter {l : List (BitVec 3)} {x : BitVec 3} (hx : x ≠ 0) (hfilter : l.filter (· ≠ 0) = [x])
    (hlast : l.getLast? = some x) : l = List.replicate (l.length - 1) 0 ++ [x] := by
  obtain ⟨init, rfl⟩ := List.getLast?_eq_some_iff.mp hlast
  have hsplit : init.filter (· ≠ 0) ++ [x].filter (· ≠ 0) = [x] := by rw [← List.filter_append, hfilter]
  have hinit : init.filter (· ≠ 0) = [] := by
    rw [List.filter_cons_of_pos (by simpa using hx)] at hsplit
    exact List.append_left_eq_self.mp hsplit
  have hzero : init = List.replicate init.length 0 :=
    List.eq_replicate_of_mem fun y hy => by simpa using List.filter_eq_nil_iff.mp hinit y hy
  simpa using hzero

/-- Settles O55: the script's cycles do what the byte rules do with the frame's bytes, and the delivered registers hold its
fields. -/
theorem readerDecodesWhatTheCodecAssembles : Obligations.ReaderDecodesWhatTheCodecAssembles := by
  intro p s a d script hd _ hst hopen hfree hscript hcarries t
  obtain ⟨r, hr, hread⟩ := reads_assemble ⟨hopen, by simp [hst], hfree⟩ hst a hd
  obtain ⟨hrd, hrxf, hfilter, hlast⟩ := after_script hread rfl rfl hscript hcarries
  have hlen : r.len.toNat = d.length := by rw [hr.len, BitVec.toNat_ofNat]; omega
  have hpayload : t.rxf.payload = d := by rw [hrxf, RxFrame.payload, hlen, hr.data]
  have haddr : t.rxf.addr = a := by rw [hrxf, hr.addr]
  have hevents := eq_replicate_append_of_filter (l := events script.length s) (x := 7) (by decide) (by rw [hfilter]; simp)
    (by rw [hlast, List.getLast?_append]; rfl)
  rw [events_length] at hevents
  exact ⟨by rw [hrd], by rw [hrxf], haddr, by rw [hrxf, hlen], hpayload, by rw [RxFrame.frame, haddr, hpayload], hevents⟩

end Sys2Proof.Proofs.Codec
end

section
/-! PROOFS. The Frame Reader of 41_reader.md: what a receive event does to the reader (R103 to R119), a closed reader (R106, R121),
the frame it emits (R116, R124), and the ways back to `S_STX` (R107, R118, R122, R123). -/

namespace Sys2Proof.Proofs.Reader

open Sys2Proof.Machine Sys2Proof.Proofs.Encoding Sys2Proof.Proofs.Codec

/-! ### RD's writes at a state -/

/-- Writes that set no sticky bit. -/
theorem applyRd_silent {p : Params} (s : Engine p) (r : Reader) (f : RxFrame) (e : RdEvent) :
    applyRd s { rd := r, rxf := f, event := e, set := 0 } = { s with rd := r, rxf := f } := by
  simp [applyRd]

/-- With the link up and a frame kept by the reader, the handshake lowers `rxf_valid_reg` exactly when the consumer takes a frame
(R119). -/
theorem rdHandshake_of_kept {p : Params} {i : Inputs} {s : Engine p} {w : RdWrites} (hlink : i.linkUp = true)
    (hkept : w.rxf = s.rxf) :
    rdHandshake i s w = { w with rxf := { s.rxf with valid := s.rxf.valid && !i.rxfReady } } := by
  unfold rdHandshake
  cases hvalid : s.rxf.valid <;> cases hready : i.rxfReady <;> simp [hlink, ← hkept, ← hvalid]

/-- The reader's registers after a non-reset cycle are RD's (R50). -/
theorem advance_rd {p : Params} {s : Engine p} (hrst : s.now.rst = false) : (advance s).rd = (rdStep s.now s).rd := by
  rw [advance_of_run hrst, Engine.nextRow_rd, combine_rd]

/-- A cycle in which RD reports nothing has code 0 on `ev_rd`, and so has a reset cycle (R34, R91). -/
theorem evRd_of_none {s : State} (hevent : (rdStep s.now s.toEngine).event = .none) : s.outputs.evRd = 0 := by
  show (evRd s.now s.toEngine).code = 0
  unfold evRd
  split
  · rfl
  · rw [hevent]
    rfl

/-- Outside reset `ev_rd` carries the code of RD's event (R33). -/
theorem evRd_of_run {s : State} (hrst : s.now.rst = false) : s.outputs.evRd = (rdStep s.now s.toEngine).event.code := by
  show (evRd s.now s.toEngine).code = _
  rw [evRd, hrst]
  rfl

/-! ### Link down and stream conditions (R104, R105) -/

/-- With the link down every receive event does what R104 says; there is no frame to hand over. -/
theorem exec_of_linkDown {i : Instr} {s : State} (hi : i.isCommand = false) (hlink : s.now.linkUp = false) :
    exec i s = .next { toEngine := applyRd s.toEngine (rdLinkDown s.toEngine) } := by
  cases i with
  | rxErr b v e => simp [exec, execRxErr, rxEndWrites, rdHandshake, hlink]
  | rxEos b v => simp [exec, execRxEos, rxEndWrites, rdHandshake, hlink]
  | rxByte b => simp [exec, execRxByte, rxByteWrites, rdHandshake, hlink]
  | rxIdle b => simp [exec, execRxIdle, rxIdleWrites, rdHandshake, hlink]
  | _ => cases hi

/-- Settles O29: every receive event's first branch is R104's, and both outputs ask for the link. -/
theorem linkDownResetsTheReader : Obligations.LinkDownResetsTheReader := by
  intro i s hi hlink
  refine ⟨?_, evRd_of_none (by rw [rdStep_event, if_pos hlink]), ?_⟩
  · rw [exec_of_linkDown hi hlink, rdLinkDown, applyRd_silent]
    rfl
  · simp [State.outputs, outputsWith, rxfValid, hlink]

/-- A stream condition with the link up: the stream's end and the output handshake (R105, R119). -/
theorem applyRd_rxEndWrites {p : Params} {i : Inputs} {s : Engine p} (eos err : Bool) (hlink : i.linkUp = true) :
    applyRd s (rxEndWrites i eos err s) =
      { s with
        rd := { s.rd.clear with state := .stx, closed := true }
        rxf := { s.rxf with valid := s.rxf.valid && !i.rxfReady }
        st := s.st ||| (rdStreamEnd eos err s).set } := by
  rw [rxEndWrites, if_pos hlink, rdHandshake_of_kept hlink rfl]
  rfl

/-- Settles O30: both conditions end the stream; their masks are RD_IOERR and RD_CLOSED. -/
theorem streamEndClosesTheReader : Obligations.StreamEndClosesTheReader := by
  intro b v e s hlink rd rxf
  obtain ⟨hclosed, hioErr⟩ := rdStep_streamEvent_iff s.now s.toEngine
  refine ⟨?_, ?_, fun hrst herr => ?_, fun hrst herr heos => ?_⟩
  · have hset : (rdStreamEnd e true s.toEngine).set = if e then 0x30 else 0x20 := by cases e <;> rfl
    rw [exec, execRxErr, applyRd_rxEndWrites e true hlink, hset]
    rfl
  · rw [exec, execRxEos, applyRd_rxEndWrites true false hlink]
    rfl
  · rw [evRd_of_run hrst, hioErr.mpr ⟨hlink, herr⟩]
    rfl
  · rw [evRd_of_run hrst, hclosed.mpr ⟨hlink, herr, heos⟩]
    rfl

/-! ### Cycles without a byte transfer (R103, R106, R107) -/

/-- No reader action with the link up leaves all but the output handshake of R119. -/
theorem applyRd_handshake_nothing {p : Params} {i : Inputs} {s : Engine p} (hlink : i.linkUp = true) :
    applyRd s (rdHandshake i s (rdNothing s)) = { s with rxf := { s.rxf with valid := s.rxf.valid && !i.rxfReady } } := by
  rw [rdHandshake_of_kept hlink rfl]
  exact applyRd_silent s _ _ _

/-- An idle cycle is no reader action for a closed reader and outside the drain (R103, R106). -/
theorem rxIdleWrites_of_quiet {p : Params} {i : Inputs} {s : Engine p} (hlink : i.linkUp = true)
    (hquiet : s.rd.closed = true ∨ s.rd.state ≠ .drain) : rxIdleWrites i s = rdHandshake i s (rdNothing s) := by
  obtain hclosed | hdrain := hquiet
  · simp [rxIdleWrites, hlink, hclosed]
  · simp [rxIdleWrites, hlink, hdrain]

theorem exec_rxIdle_of_quiet {b : Byte} {s : State} (hlink : s.now.linkUp = true)
    (hquiet : s.rd.closed = true ∨ s.rd.state ≠ .drain) :
    exec (.rxIdle b) s = .next { s with rxf := { s.rxf with valid := s.rxf.valid && !s.now.rxfReady } } := by
  rw [exec, execRxIdle, rxIdleWrites_of_quiet hlink hquiet, applyRd_handshake_nothing hlink]

/-- A byte is no reader action when the reader is closed (R106) or a frame waits in the output register (R28). -/
theorem exec_rxByte_of_held {b : Byte} {s : State} (hlink : s.now.linkUp = true)
    (hheld : s.rd.closed = true ∨ s.rxf.valid = true) :
    exec (.rxByte b) s = .next { s with rxf := { s.rxf with valid := s.rxf.valid && !s.now.rxfReady } } := by
  have hwrites : rxByteWrites s.now b s.toEngine = rdHandshake s.now s.toEngine (rdNothing s.toEngine) := by
    obtain hclosed | hwait := hheld
    · simp [rxByteWrites, hlink, hclosed]
    · simp [rxByteWrites, hlink, hwait]
  rw [exec, execRxByte, hwrites, applyRd_handshake_nothing hlink]

/-- Settles O31: the branch of a closed reader is taken before a byte or the drain is looked at. -/
theorem closedReaderDiscardsBytes : Obligations.ClosedReaderDiscardsBytes := by
  intro b s hlink hclosed t
  refine ⟨exec_rxByte_of_held hlink (.inl hclosed), exec_rxIdle_of_quiet hlink (.inl hclosed), fun herr heos => evRd_of_none ?_⟩
  rw [rdStep_event]
  simp [hlink, herr, heos, hclosed]

/-- Settles O33: no byte, or one held back by the waiting frame, is the last branch of R103. -/
theorem noTransferLeavesTheReader : Obligations.NoTransferLeavesTheReader := by
  intro b s hlink _ t
  exact ⟨fun hdrain => exec_rxIdle_of_quiet hlink (.inr hdrain), fun hwait => exec_rxByte_of_held hlink (.inr hwait)⟩

/-! ### A byte that transfers (R108 to R117) -/

section ByteTransfer

variable {b : Byte} {s : State} (hlink : s.now.linkUp = true) (hopen : s.rd.closed = false) (hfree : s.rxf.valid = false)

include hlink hopen hfree

/-- A byte offered to an open reader with a free output register does what its byte rule says. -/
theorem exec_rxByte_of_rule {w : RdWrites} (hrule : byteRule b s.toEngine = w) :
    exec (.rxByte b) s = .next { toEngine := applyRd s.toEngine w } := by
  simp [exec, execRxByte, rxByteWrites, rdHandshake_of_free, hlink, hopen, hfree, hrule]

/-- The same for a rule that sets no sticky bit. -/
theorem exec_rxByte_of_silent_rule {r : Reader} {f : RxFrame} {e : RdEvent}
    (hrule : byteRule b s.toEngine = { rd := r, rxf := f, event := e, set := 0 }) :
    exec (.rxByte b) s = .next { s with rd := r, rxf := f } := by
  rw [exec_rxByte_of_rule hlink hopen hfree hrule, applyRd_silent]

end ByteTransfer

/-- A script whose first cycle offers a byte. -/
theorem offers_of_carries {p : Params} {s : Engine p} {b : Byte} {script : List (Option Byte)}
    (h : carries (some b :: script) s = true) : offers s b = true ∧ carries script (advance s) = true := by
  simpa [carries] using h

/-- In a cycle that offers the byte, `ev_rd` carries the code of its byte rule's event. -/
theorem evRd_of_offer {b : Byte} {s : State} (hopen : s.rd.closed = false) (hfree : s.rxf.valid = false)
    (hoffer : offers s.toEngine b = true) : s.outputs.evRd = (byteRule b s.toEngine).event.code := by
  obtain ⟨-, -, hev⟩ := advance_of_offer hoffer hopen hfree
  exact hev

section ByteRules

variable {p : Params} {s : Engine p} {b : Byte}

theorem byteRule_noise (hst : s.rd.state = .stx) (hb : b ≠ Config.stx) :
    byteRule b s = { rdNothing s with event := .badStx, set := Sticky.badStx } := by
  simp only [byteRule, hst, byteInStx, if_neg hb]

theorem byteRule_len (hst : s.rd.state = .len) (hb : b.toNat ≤ 8) :
    byteRule b s =
      { rdNothing s with
        rd := { s.rd with
          len := BitVec.ofNat 4 b.toNat
          cnt := 0
          fb := false
          state := if b.toNat = 0 then .cks else .data } } := by
  have hzero : b = 0 ↔ b.toNat = 0 := by rw [← BitVec.toNat_inj]; rfl
  simp only [byteRule, hst, byteInLen, if_pos hb, hzero, BitVec.ofNat_toNat]

theorem byteRule_store (hst : s.rd.state = .data) (hcnt : s.rd.cnt.toNat < 8) :
    byteRule b s =
      { rdNothing s with
        rd := { s.rd with
          data := s.rd.data.set s.rd.cnt.toNat b hcnt
          cnt := s.rd.cnt + 1
          state := if s.rd.cnt.toNat + 1 = s.rd.len.toNat then .cks else .data } } := by
  simp [byteRule, hst, byteInData, State.setIfInBounds_of_lt _ hcnt]

theorem byteRule_badCksum (hst : s.rd.state = .cks) (hb : b ≠ expectedCksum p s.rd) :
    byteRule b s = { rdNothing s with rd := s.rd.resync p, event := .badCksum, set := Sticky.badCksum } := by
  simp [byteRule, hst, byteInCks, hb]

theorem byteRule_badEtx (hst : s.rd.state = .etx) (hb : b ≠ Config.etx) :
    byteRule b s = { rdNothing s with rd := s.rd.resync p, event := .badEtx, set := Sticky.badEtx } := by
  simp only [byteRule, hst, byteInEtx, if_neg hb]

theorem byteRule_drain (hst : s.rd.state = .drain) : byteRule b s = rdNothing s := by
  simp [byteRule, hst]

end ByteRules

/-- Settles O34: STX and noise are the two branches of R108. -/
theorem awaitStxTakesOnlyStx : Obligations.AwaitStxTakesOnlyStx := by
  intro b s hlink hopen hfree hst
  refine ⟨fun hb => ?_, fun hb => ?_, fun hoffer => ?_⟩
  · exact exec_rxByte_of_silent_rule hlink hopen hfree (by rw [hb, byteRule_stx hst]; rfl)
  · exact exec_rxByte_of_rule hlink hopen hfree (byteRule_noise hst hb)
  · rw [evRd_of_offer hopen hfree hoffer, byteRule, hst, byteInStx_event]
    split <;> rfl

/-- Settles O35: R109 has one branch. -/
theorem awaitAddressTakesAnyByte : Obligations.AwaitAddressTakesAnyByte := by
  intro b s hlink hopen hfree hst
  refine ⟨exec_rxByte_of_silent_rule hlink hopen hfree (byteRule_addr hst b), fun hoffer => ?_⟩
  rw [evRd_of_offer hopen hfree hoffer, byteRule_addr hst b]
  rfl

/-- Settles O36: a declared length and the fallback are the two branches of R110 and R111. -/
theorem awaitLengthDeclaresOrFallsBack : Obligations.AwaitLengthDeclaresOrFallsBack := by
  intro b s hlink hopen hfree hst
  refine ⟨fun hb => ?_, fun hb => ?_, fun hoffer => ?_⟩
  · exact exec_rxByte_of_silent_rule hlink hopen hfree (byteRule_len hst hb)
  · exact exec_rxByte_of_rule hlink hopen hfree (byteRule_fallback hst hb)
  · rw [evRd_of_offer hopen hfree hoffer, byteRule, hst, byteInLen_event]
    split <;> rfl

/-- Settles O37: the byte is stored, and the count decides between `S_CKS` and `S_DATA`. -/
theorem readingDataStoresTheByte : Obligations.ReadingDataStoresTheByte := by
  intro b s hcnt hlink hopen hfree hst
  have hrule := byteRule_store (b := b) hst hcnt
  have hexec := exec_rxByte_of_silent_rule hlink hopen hfree hrule
  refine ⟨fun hlast => ?_, fun hmore => ?_, fun hoffer => ?_⟩
  · rw [hexec, if_pos hlast]
    rfl
  · rw [hexec, if_neg hmore, ← hst]
    rfl
  · rw [evRd_of_offer hopen hfree hoffer, hrule]
    rfl

/-- The checksum expected under IMPLIED completes the sum of STX, ADDRESS, LENGTH and DATA, a fallback frame's too (R113). -/
theorem eq_expectedCksum_iff {p : Params} {r : Reader} {b : Byte} (himplied : p.fallbackCksum = .implied) :
    b = expectedCksum p r ↔
      (sumBytes ([0x0F, r.addr, BitVec.ofNat 8 r.len.toNat] ++ r.data.toList.take r.len.toNat) + b.toNat) % 256 = 0 := by
  rw [← eq_cks8_iff]
  simp [expectedCksum, himplied, Reader.payload, prefixBytes, BitVec.ofNat_toNat]

/-- Settles O38: this hardware's expected checksum is the one that completes the covered bytes' sum. -/
theorem awaitChecksumComparesTheCoveredBytes : Obligations.AwaitChecksumComparesTheCoveredBytes := by
  intro b s hlink hopen hfree hst _ covered
  have hmatch : b = expectedCksum Config.params s.rd ↔ (sumBytes covered + b.toNat) % 256 = 0 := eq_expectedCksum_iff rfl
  refine ⟨fun hsum => ?_, fun hsum => ?_, fun hoffer => ?_⟩
  · exact exec_rxByte_of_silent_rule hlink hopen hfree (byteRule_cks hst (hmatch.mpr hsum))
  · exact exec_rxByte_of_rule hlink hopen hfree (byteRule_badCksum hst (mt hmatch.mp hsum))
  · rw [evRd_of_offer hopen hfree hoffer, byteRule, hst, byteInCks_event]
    simp only [hmatch]
    split <;> rfl

/-- Settles O39: ETX emits, any other byte resyncs with this hardware's drain. -/
theorem awaitEtxEmitsOrResyncs : Obligations.AwaitEtxEmitsOrResyncs := by
  intro b s hlink hopen hfree hst
  refine ⟨fun hb => ?_, fun hb => ?_, fun hoffer => ?_⟩
  · exact exec_rxByte_of_silent_rule hlink hopen hfree (by rw [hb, byteRule_etx hst]; rfl)
  · exact exec_rxByte_of_rule hlink hopen hfree (byteRule_badEtx hst hb)
  · rw [evRd_of_offer hopen hfree hoffer, byteRule, hst, byteInEtx_event]
    split <;> rfl

/-! ### The drain (R107, R118) -/

/-- The first idle cycle ends the drain (R107). -/
theorem rxIdleWrites_of_drain {p : Params} {i : Inputs} {s : Engine p} (hlink : i.linkUp = true) (hopen : s.rd.closed = false)
    (hst : s.rd.state = .drain) (hfree : s.rxf.valid = false) : rxIdleWrites i s = rdDrainEnd s := by
  simp [rxIdleWrites, rdHandshake_of_free, hlink, hopen, hst, hfree]

/-- Settles O32: the drain's byte rule writes nothing, and its idle cycle writes `S_STX`. -/
theorem drainEndsAtTheFirstIdleCycle : Obligations.DrainEndsAtTheFirstIdleCycle := by
  intro b s hlink hopen hst hfree
  refine ⟨exec_rxByte_of_silent_rule hlink hopen hfree (byteRule_drain hst), ?_, fun hrst => ?_, fun herr heos => ?_⟩
  · rw [exec, execRxIdle, rxIdleWrites_of_drain hlink hopen hst hfree]
    exact congrArg Host.Outcome.next (congrArg State.mk (applyRd_silent s.toEngine _ _ _))
  · simp [State.outputs, outputsWith, rxReady, hrst, hfree]
  · refine evRd_of_none ?_
    rw [rdStep_event]
    simp [hlink, herr, heos, hopen, hst]

/-- Bytes without a gap keep a draining reader as it is, and raise no event. By induction on the bytes. -/
theorem after_drained {p : Params} {s : Engine p} (bytes : List Byte) (hst : s.rd.state = .drain) (hopen : s.rd.closed = false)
    (hfree : s.rxf.valid = false) (hcarries : carries (bytes.map some) s = true) :
    (after bytes.length s).rd = s.rd ∧ (after bytes.length s).rxf = s.rxf
      ∧ events bytes.length s = List.replicate bytes.length 0 := by
  induction bytes generalizing s with
  | nil => exact ⟨rfl, rfl, rfl⟩
  | cons b bytes ih =>
    obtain ⟨hoffer, hrest⟩ := offers_of_carries hcarries
    obtain ⟨hrd, hrxf, hev⟩ := advance_of_offer hoffer hopen hfree
    rw [byteRule_drain hst] at hrd hrxf hev
    obtain ⟨hrd', hrxf', hevents⟩ := ih (hrd ▸ hst) (hrd ▸ hopen) (hrxf ▸ hfree) hrest
    refine ⟨hrd'.trans hrd, hrxf'.trans hrxf, ?_⟩
    simp only [List.length_cons, events, hev, hevents, List.replicate_succ]
    rfl

/-- The byte of a violation: the reader resyncs, the output register keeps what it holds, the event names the violation (R115,
R117). -/
theorem byteRule_violation {p : Params} {s : Engine p} {b : Byte}
    (h : s.rd.state = .cks ∧ b ≠ expectedCksum p s.rd ∨ s.rd.state = .etx ∧ b ≠ 0x04) :
    (byteRule b s).rd = s.rd.resync p ∧ (byteRule b s).rxf = s.rxf
      ∧ (byteRule b s).event.code = if s.rd.state = .cks then 3 else 4 := by
  obtain ⟨hst, hb⟩ | ⟨hst, hb⟩ := h
  · rw [byteRule_badCksum hst hb, hst]
    exact ⟨rfl, rfl, rfl⟩
  · rw [byteRule_badEtx hst hb, hst]
    exact ⟨rfl, rfl, rfl⟩

/-- An idle cycle of a draining reader awaits STX again (R107). -/
theorem advance_of_drain_end {p : Params} {s : Engine p} (hidle : idles s = true) (hopen : s.rd.closed = false)
    (hst : s.rd.state = .drain) (hfree : s.rxf.valid = false) : (advance s).rd = { s.rd with state := .stx } := by
  simp only [idles, Bool.and_eq_true, Bool.not_eq_true'] at hidle
  obtain ⟨⟨⟨⟨hrst, hlink⟩, hvalid⟩, heos⟩, herr⟩ := hidle
  have hstep : rdStep s.now s = rdDrainEnd s := by
    rw [rdStep_idle _ _ herr heos hvalid, rxIdleWrites_of_drain hlink hopen hst hfree]
  rw [advance_rd hrst, hstep]
  rfl

/-- Settles O59: the violation's byte resyncs, and the drain lasts as long as bytes follow without a gap. -/
theorem violationResyncsAsTheParameterSays : Obligations.ViolationResyncsAsTheParameterSays := by
  intro p s b rest hopen hfree hviolation hcarries cleared
  obtain ⟨hoffer, hrest⟩ := offers_of_carries hcarries
  obtain ⟨hrd, hrxf, hev⟩ := advance_of_offer hoffer hopen hfree
  obtain ⟨hresync, hkept, hcode⟩ := byteRule_violation hviolation
  rw [hresync] at hrd
  rw [hkept] at hrxf
  rw [hcode] at hev
  have hcleared : s.rd.resync p = cleared (if p.drainOnError then .drain else .stx) := by
    rw [Reader.resync, Reader.clear, hopen]
  refine ⟨fun hoff => ?_, fun hon => ?_⟩
  · rw [after_succ, after_zero, hrd, hcleared, hoff]
    rfl
  · intro t
    have hdrain : (advance s).rd = cleared .drain := by rw [hrd, hcleared, if_pos hon]
    have hfree' : (advance s).rxf.valid = false := by rw [hrxf, hfree]
    obtain ⟨hrd', hrxf', hevents⟩ := after_drained rest (by rw [hdrain]) (by rw [hdrain]) hfree' hrest
    have htrd : t.rd = cleared .drain := hrd'.trans hdrain
    have htrxf : t.rxf = s.rxf := hrxf'.trans hrxf
    refine ⟨htrd, htrxf, ?_, fun hrst hlink herr heos hvalid => ?_⟩
    · rw [events, hev, hevents]
    · have hidle : idles t = true := by simp [idles, hrst, hlink, herr, heos, hvalid]
      have hlast : after (rest.length + 2) s = advance t := after_add (rest.length + 1) 1 s
      rw [hlast, advance_of_drain_end hidle (by rw [htrd]) (by rw [htrd]) (by rw [htrxf, hfree]), htrd]

/-! ### A closed reader (R106, R121) -/

/-- By R44 the registers of a closed reader are those that the stream's end has left (R105). -/
theorem streamEnd_of_closed {p : Params} {s : Engine p} (h : Invariant s) (hclosed : s.rd.closed = true) :
    { s.rd.clear with state := .stx, closed := true } = s.rd := by
  have hst := h.closedStx hclosed
  obtain ⟨hlen, hcnt, hfb, hzero⟩ := h.cleared (.inl hst)
  have hdata : s.rd.data = Vector.replicate 8 0 := by
    ext k hk
    rw [hzero k hk, Vector.getElem_replicate]
  have hrd : s.rd = ⟨s.rd.state, s.rd.addr, s.rd.len, s.rd.cnt, s.rd.data, s.rd.fb, s.rd.closed⟩ := rfl
  rw [hst, h.addrCleared hst, hlen, hcnt, hdata, hfb, hclosed] at hrd
  rw [hrd]
  rfl

/-- Settles O42: with the link up a closed reader's registers are what each branch of R103 would write. -/
theorem closedReaderWaitsForLinkDown : Obligations.ClosedReaderWaitsForLinkDown := by
  intro s t hinv hrst hclosed ht
  cases (Scope.step_eq_advance s).symm.trans ht
  cases hlink : s.now.linkUp with
  | false =>
    refine ⟨?_, nofun⟩
    rw [advance_rd hrst, rdStep, rdHandshake_rd, if_pos hlink]
    rfl
  | true =>
    have hkept : (advance s.toEngine).rd = s.rd := by
      rw [advance_rd hrst, rdStep, rdHandshake_rd, if_neg (by simp [hlink])]
      split_ifs
      · exact streamEnd_of_closed hinv hclosed
      · rfl
    exact ⟨(congrArg Reader.closed hkept).trans hclosed, fun _ => hkept⟩

/-! ### No timeout (R122) -/

/-- Settles O60, by induction on the cycles: without a byte RD writes the reader's registers only in the drain. -/
theorem partialFrameWaitsWithoutTimeout : Obligations.PartialFrameWaitsWithoutTimeout := by
  intro p n
  induction n with
  | zero => exact fun _ _ _ => rfl
  | succ n ih =>
    intro s hdrain hquiet
    obtain ⟨hrst, hlink, herr, heos, hvalid⟩ := hquiet 0 (Nat.succ_pos n)
    simp only [after_zero] at hrst hlink herr heos hvalid
    have hrd : (advance s).rd = s.rd := by
      rw [advance_rd hrst, rdStep_idle _ _ herr heos hvalid, rxIdleWrites_of_quiet hlink (.inr hdrain), rdHandshake_rd]
      rfl
    rw [after_succ, ih (advance s) (hrd ▸ hdrain) fun k hk => hquiet (k + 1) (Nat.succ_lt_succ hk), hrd]

/-! ### Bounded recovery (R123) -/

/-- The reader is in `S_STX` or in `S_DRAIN`. -/
def AtRest (r : Reader) : Prop := r.state = .stx ∨ r.state = .drain

/-- How many bytes the way back takes at most: ADDRESS, LENGTH, 8 DATA bytes, CHECKSUM and ETX from `S_ADDR`. -/
def bytesToRest (r : Reader) : Nat :=
  match r.state with
  | .addr => 12
  | .len => 11
  | .data => r.len.toNat - r.cnt.toNat + 2
  | .cks => 2
  | .etx => 1
  | .stx => 0
  | .drain => 0

/-- What the way back needs of the reader beside its state: it is open, and in `S_DATA` a DATA byte is missing (R44). -/
structure Receiving (r : Reader) : Prop where
  isOpen : r.closed = false
  inData : r.state = .data → r.cnt.toNat < r.len.toNat ∧ r.len.toNat ≤ 8

theorem receiving_of_invariant {p : Params} {s : Engine p} (h : Invariant s) (hst : s.rd.state ≠ .stx) : Receiving s.rd := by
  refine ⟨by simpa using mt h.closedStx hst, fun hdata => ?_⟩
  obtain ⟨-, hlt, -⟩ := h.inData hdata
  exact ⟨hlt, h.rdLen_le⟩

theorem bytesToRest_le {r : Reader} (h : Receiving r) : bytesToRest r ≤ 12 := by
  unfold bytesToRest
  split
  case h_3 hdata =>
    obtain ⟨-, hlen⟩ := h.inData hdata
    omega
  all_goals decide

theorem atRest_of_bytesToRest {r : Reader} (h : bytesToRest r = 0) : AtRest r := by
  unfold bytesToRest at h
  split at h
  case h_6 hst => exact .inl hst
  case h_7 hst => exact .inr hst
  all_goals cases h

theorem atRest_resync (p : Params) (r : Reader) : AtRest (r.resync p) := by
  rw [AtRest, Reader.resync_state]
  split
  · exact .inr rfl
  · exact .inl rfl

/-- Each byte that transfers is a step on the way back (R108 to R117). -/
theorem byteRule_nearer {p : Params} {s : Engine p} (h : Receiving s.rd) (hbusy : ¬ AtRest s.rd) (b : Byte) :
    AtRest (byteRule b s).rd ∨ Receiving (byteRule b s).rd ∧ bytesToRest (byteRule b s).rd < bytesToRest s.rd := by
  cases hst : s.rd.state with
  | stx => exact absurd (.inl hst) hbusy
  | drain => exact absurd (.inr hst) hbusy
  | addr =>
    rw [byteRule_addr hst b]
    exact .inr ⟨⟨h.isOpen, nofun⟩, by simp [bytesToRest, hst]⟩
  | len =>
    refine .inr ?_
    by_cases hb : b.toNat ≤ 8
    · rw [byteRule_len hst hb]
      by_cases hzero : b.toNat = 0
      · rw [if_pos hzero]
        exact ⟨⟨h.isOpen, nofun⟩, by simp [bytesToRest, hst]⟩
      · rw [if_neg hzero]
        have hlen : (BitVec.ofNat 4 b.toNat).toNat = b.toNat := by rw [BitVec.toNat_ofNat]; omega
        exact ⟨⟨h.isOpen, fun _ => ⟨by simp; omega, hlen.trans_le hb⟩⟩, by simp [bytesToRest, hst]; omega⟩
    · rw [byteRule_fallback hst (Nat.lt_of_not_le hb)]
      exact ⟨⟨h.isOpen, nofun⟩, by simp [bytesToRest, hst]⟩
  | data =>
    obtain ⟨hlt, hlen⟩ := h.inData hst
    have hcnt : (s.rd.cnt + 1).toNat = s.rd.cnt.toNat + 1 := by simp; omega
    refine .inr ?_
    rw [byteRule_store hst (hlt.trans_le hlen)]
    by_cases hlast : s.rd.cnt.toNat + 1 = s.rd.len.toNat
    · rw [if_pos hlast]
      exact ⟨⟨h.isOpen, nofun⟩, by simp [bytesToRest, hst]; omega⟩
    · rw [if_neg hlast]
      exact ⟨⟨h.isOpen, fun _ => ⟨by dsimp only; omega, hlen⟩⟩, by simp only [bytesToRest, hst, hcnt]; omega⟩
  | cks =>
    by_cases hb : b = expectedCksum p s.rd
    · rw [byteRule_cks hst hb]
      exact .inr ⟨⟨h.isOpen, nofun⟩, by simp [bytesToRest, hst]⟩
    · rw [byteRule_badCksum hst hb]
      exact .inl (atRest_resync p s.rd)
  | etx =>
    by_cases hb : b = Config.etx
    · rw [hb, byteRule_etx hst]
      exact .inl (.inl rfl)
    · rw [byteRule_badEtx hst hb]
      exact .inl (atRest_resync p s.rd)

/-- What RD does to an open reader that is not at rest: link down and the stream's end lead to `S_STX`, else a byte that transfers
does what its byte rule says, and without one nothing changes (R103). -/
theorem rdStep_rd_cases {p : Params} (i : Inputs) {s : Engine p} (hopen : s.rd.closed = false) (hbusy : ¬ AtRest s.rd) :
    AtRest (rdStep i s).rd
    ∨ (rxXfer i s = true ∧ (rdStep i s).rd = (byteRule i.rxByte s).rd)
    ∨ (rxXfer i s = false ∧ (rdStep i s).rd = s.rd) := by
  rw [rdStep, rdHandshake_rd]
  split_ifs with hlink hend hclosed hdrain hvalid hxfer
  · exact .inl (.inl rfl)
  · exact .inl (.inl rfl)
  · simp [hopen] at hclosed
  · exact absurd (.inr hdrain) hbusy
  · exact absurd (.inr hdrain) hbusy
  · exact .inr (.inl ⟨hxfer, rfl⟩)
  · exact .inr (.inr ⟨by simpa using hxfer, rfl⟩)

/-- A cycle brings the reader to rest, or as many bytes nearer to it as transfer. -/
theorem advance_nearer {p : Params} {s : Engine p} (h : Receiving s.rd) (hbusy : ¬ AtRest s.rd) :
    AtRest (advance s).rd ∨
      Receiving (advance s).rd ∧ bytesToRest (advance s).rd + (if byteTransfers s then 1 else 0) ≤ bytesToRest s.rd := by
  cases hrst : s.now.rst with
  | true =>
    rw [advance_of_reset hrst]
    exact .inl (.inl rfl)
  | false =>
    rw [advance_rd hrst, byteTransfers]
    obtain hrest | ⟨hxfer, hrd⟩ | ⟨hxfer, hrd⟩ := rdStep_rd_cases s.now h.isOpen hbusy
    · exact .inl hrest
    · rw [hrd, hxfer]
      exact byteRule_nearer h hbusy s.now.rxByte
    · rw [hrd, hxfer]
      exact .inr ⟨h, le_rfl⟩

/-- A reader not at rest gets there within as many bytes as its way back has. By induction on the cycles. -/
theorem exists_atRest {p : Params} (n : Nat) {s : Engine p} (h : Receiving s.rd) (hbusy : ¬ AtRest s.rd)
    (hbytes : bytesToRest s.rd ≤ countCycles byteTransfers n s) : ∃ k, 0 < k ∧ k ≤ n ∧ AtRest (after k s).rd := by
  induction n generalizing s with
  | zero => exact absurd (atRest_of_bytesToRest (Nat.le_zero.mp hbytes)) hbusy
  | succ n ih =>
    by_cases hrest : AtRest (advance s).rd
    · exact ⟨1, Nat.one_pos, by omega, hrest⟩
    · obtain ⟨hnext, hnearer⟩ := (advance_nearer h hbusy).resolve_left hrest
      rw [countCycles] at hbytes
      obtain ⟨k, -, hk, hat⟩ := ih hnext hrest (by omega)
      exact ⟨k + 1, Nat.succ_pos k, Nat.succ_le_succ hk, hat⟩

/-- Settles O58: by R44 the reader is receiving, and its way back has at most 12 bytes. -/
theorem readerRecoversWithinTwelveBytes : Obligations.ReaderRecoversWithinTwelveBytes := by
  intro p s n hinv hstx hdrain hbytes
  have h := receiving_of_invariant hinv hstx
  exact exists_atRest n h (fun hrest => hrest.elim hstx hdrain) ((bytesToRest_le h).trans hbytes)

/-! ### The emitted frame (R116, R124) -/

/-- The open reader has received exactly these bytes since it awaited STX, none of them in place of a LENGTH above 8. -/
inductive Received : Reader → List Byte → Prop where
  | nothing {r : Reader} (isOpen : r.closed = false) (state : r.state = .stx) : Received r []
  | stx {r : Reader} (isOpen : r.closed = false) (state : r.state = .addr) : Received r [Config.stx]
  | address {r : Reader} (isOpen : r.closed = false) (state : r.state = .len) : Received r [Config.stx, r.addr]
  | data {r : Reader} {a l : Byte} {d : List Byte} (holds : Holds r a l.toNat d) (length_le : l.toNat ≤ 8)
      (data_le : d.length ≤ l.toNat) : Received r (Config.stx :: a :: l :: d)
  | checksum {r : Reader} (isOpen : r.closed = false) (state : r.state = .etx) :
      Received r (frameHead r.addr r.payload ++ [cks8 (frameHead r.addr r.payload)])

theorem Received.isOpen {r : Reader} {bytes : List Byte} (h : Received r bytes) : r.closed = false := by
  cases h with
  | data holds => exact holds.isOpen
  | _ => assumption

theorem Received.notDraining {r : Reader} {bytes : List Byte} (h : Received r bytes) : r.state ≠ .drain := by
  cases h with
  | data holds => exact holds.notDraining
  | nothing _ hst => simp [hst]
  | stx _ hst => simp [hst]
  | address _ hst => simp [hst]
  | checksum _ hst => simp [hst]

theorem payload_of_holds {r : Reader} {a : Byte} {d : List Byte} (h : Holds r a d.length d) (hd : d.length ≤ 8) :
    r.payload = d := by
  have hlen : r.len.toNat = d.length := by rw [h.len, BitVec.toNat_ofNat]; omega
  rw [Reader.payload, hlen, h.data]

/-- A byte that raises no event is received behind the others (R108 to R114). -/
theorem byteRule_received {p : Params} {s : Engine p} {bytes : List Byte} {b : Byte} (h : Received s.rd bytes)
    (hevent : (byteRule b s).event = .none) :
    Received (byteRule b s).rd (bytes ++ [b]) ∧ (byteRule b s).rxf = s.rxf := by
  obtain ⟨hbadStx, hlenFallback, hbadCksum, hbadEtx, hframe, -, -⟩ := byteRule_event_iff b s
  simp only [hevent, reduceCtorEq, false_iff, not_and, not_not, Nat.not_lt] at hbadStx hlenFallback hbadCksum hbadEtx hframe
  cases h with
  | nothing hopen hst =>
    rw [hbadStx hst, byteRule_stx hst]
    exact ⟨.stx hopen rfl, rfl⟩
  | stx hopen hst =>
    rw [byteRule_addr hst b]
    exact ⟨.address hopen rfl, rfl⟩
  | address hopen hst =>
    obtain ⟨r, hr, hrule⟩ := byteRule_declared hst hopen (hlenFallback hst)
    rw [hrule]
    exact ⟨.data hr (hlenFallback hst) (Nat.zero_le _), rfl⟩
  | @data a l d holds hl hd =>
    rcases hd.lt_or_eq with hmore | hall
    · obtain ⟨r, hr, hrule⟩ := byteRule_data holds hmore hl b
      rw [hrule]
      exact ⟨.data hr hl (by simpa using hmore), rfl⟩
    · rw [← hall] at holds hl
      have hst : s.rd.state = .cks := by rw [holds.state, if_pos rfl]
      have hbytes : Config.stx :: a :: l :: d = frameHead s.rd.addr s.rd.payload := by
        rw [payload_of_holds holds hl, holds.addr, frameHead, hall, BitVec.ofNat_toNat, BitVec.setWidth_eq]
      have hb : b = cks8 (frameHead s.rd.addr s.rd.payload) := by
        rw [hbadCksum hst, holds.expectedCksum hl, payload_of_holds holds hl, holds.addr]
      rw [byteRule_cks hst (hbadCksum hst), hbytes, hb]
      exact ⟨.checksum holds.isOpen rfl, rfl⟩
  | checksum hopen hst => exact absurd (hbadEtx hst) (hframe hst)

/-- The byte that raises FRAME ends the frame of the bytes received, and the output register holds that frame (R116). -/
theorem byteRule_emitted {p : Params} {s : Engine p} {bytes : List Byte} {b : Byte} (h : Received s.rd bytes)
    (hevent : (byteRule b s).event = .frame) :
    (byteRule b s).rxf.valid = true ∧ (byteRule b s).rxf.frame = bytes ++ [b] := by
  obtain ⟨-, -, -, -, hframe, -, -⟩ := byteRule_event_iff b s
  obtain ⟨hst, rfl⟩ := hframe.mp hevent
  rw [byteRule_etx hst]
  refine ⟨rfl, ?_⟩
  cases h with
  | checksum => exact (List.append_assoc _ [_] [_]).symm
  | data holds => rw [holds.state] at hst; split at hst <;> cases hst
  | nothing _ hst' => cases hst.symm.trans hst'
  | stx _ hst' => cases hst.symm.trans hst'
  | address _ hst' => cases hst.symm.trans hst'

/-- The first of some entries that are 0 but for the last: it is the last itself, or 0 with such entries behind it. -/
theorem cons_eq_replicate_append {x y : BitVec 3} {l : List (BitVec 3)} {n : Nat} (h : x :: l = List.replicate n 0 ++ [y]) :
    (n = 0 ∧ x = y) ∨ (x = 0 ∧ l = List.replicate (n - 1) 0 ++ [y]) := by
  cases n with
  | zero =>
    cases h
    exact .inl ⟨rfl, rfl⟩
  | succ n =>
    rw [List.replicate_succ, List.cons_append, List.cons.injEq] at h
    exact .inr h

/-- The frame emitted at the end of a script is what was received before it and what the script offers. By induction on the
script. -/
theorem after_emitted {p : Params} (script : List (Option Byte)) {s : Engine p} {bytes : List Byte} (h : Received s.rd bytes)
    (hfree : s.rxf.valid = false) (hcarries : carries script s = true)
    (hevents : events script.length s = List.replicate (script.length - 1) 0 ++ [7]) :
    (after script.length s).rxf.valid = true ∧ (after script.length s).rxf.frame = bytes ++ script.filterMap id := by
  induction script generalizing s bytes with
  | nil => cases hevents
  | cons o script ih =>
    have hfirst := cons_eq_replicate_append hevents
    rw [List.length_cons, Nat.add_sub_cancel] at hfirst
    cases o with
    | none =>
      obtain ⟨hidle, hrest⟩ : idles s = true ∧ carries script (advance s) = true := by simpa [carries] using hcarries
      obtain ⟨hrd, hrxf, hev⟩ := advance_of_idle hidle h.isOpen h.notDraining hfree
      obtain ⟨-, hev'⟩ | ⟨-, hrestEvents⟩ := hfirst
      · exact absurd (hev.symm.trans hev') (by decide)
      · exact ih (hrd ▸ h) (hrxf ▸ hfree) hrest hrestEvents
    | some b =>
      obtain ⟨hoffer, hrest⟩ := offers_of_carries hcarries
      obtain ⟨hrd, hrxf, hev⟩ := advance_of_offer hoffer h.isOpen hfree
      obtain ⟨hlast, hev'⟩ | ⟨hev', hrestEvents⟩ := hfirst
      · have hframe : (byteRule b s).event = .frame := rdEvent_code_injective (hev.symm.trans hev')
        obtain rfl := List.length_eq_zero_iff.mp hlast
        rw [List.length_singleton, after_succ, after_zero, hrxf]
        exact byteRule_emitted h hframe
      · have hnone : (byteRule b s).event = .none := rdEvent_code_injective (hev.symm.trans hev')
        obtain ⟨hreceived, hkept⟩ := byteRule_received h hnone
        obtain ⟨hvalid, hframe⟩ := ih (hrd ▸ hreceived) (by rw [hrxf, hkept, hfree]) hrest hrestEvents
        exact ⟨hvalid, hframe.trans (List.append_assoc bytes [b] _)⟩

/-- Settles O57: before the script the reader has received nothing. -/
theorem emittedFrameIsWhatWasReceived : Obligations.EmittedFrameIsWhatWasReceived := by
  intro p s script _ hst hopen hfree hcarries hevents
  exact after_emitted script (.nothing hopen hst) hfree hcarries hevents

end Sys2Proof.Proofs.Reader
end

section
/-! PROOFS. The Send Scheduler of 42_scheduler.md: SEND (R126), the action of each cycle (R127 to R132), the minimum spacing (R134),
no extra delay (R135) and the bounded waiting time (R137). -/

namespace Sys2Proof.Proofs.Scheduler

open Sys2Proof.Machine Sys2Proof.Proofs.Codec Sys2Proof.Proofs.Memory

/-! ### Runs without a reset cycle -/

theorem noReset_add {p : Params} (m n : Nat) (s : Engine p) : noReset (m + n) s = (noReset m s && noReset n (after m s)) := by
  induction m generalizing s with
  | zero => simp [noReset]
  | succ m ih => rw [Nat.succ_add, noReset, noReset, ih, after_succ, Bool.and_assoc]

theorem noReset_of_le {p : Params} {m n : Nat} {s : Engine p} (hmn : m ≤ n) (h : noReset n s = true) : noReset m s = true := by
  rw [← Nat.add_sub_cancel' hmn, noReset_add, Bool.and_eq_true] at h
  exact h.1

/-- The cycle that follows the first `n` of a longer run is not a reset cycle either. -/
theorem rst_after {p : Params} {n : Nat} {s : Engine p} (h : noReset (n + 1) s = true) : (after n s).now.rst = false := by
  rw [noReset_add, Bool.and_eq_true] at h
  exact (noReset_succ h.2).1

/-! ### Write starts and hold cycles (R127, R133) -/

/-- The scheduler starts no write while it counts down (R128). -/
theorem writeStart_of_countdown {p : Params} {s : Engine p} (h : 0 < s.spCnt.toNat) : writeStart s = false := by
  have hne : s.spCnt.toNat ≠ 0 := Nat.ne_of_gt h
  simp [writeStart, hne]

theorem spCnt_of_writeStart {p : Params} {s : Engine p} (h : writeStart s = true) : s.spCnt.toNat = 0 := by
  by_contra hne
  rw [writeStart_of_countdown (Nat.pos_of_ne_zero hne)] at h
  cases h

/-- No write starts from an empty queue (R132). -/
theorem writeStart_of_empty {p : Params} {s : Engine p} (h : s.txq = []) : writeStart s = false := by
  simp [writeStart, h]

/-- With the spacing over and a frame queued, the link and the transport decide (R129 to R131). -/
theorem writeStart_of_queued {p : Params} {s : Engine p} (hrst : s.now.rst = false) (hzero : s.spCnt.toNat = 0) (hq : s.txq ≠ []) :
    writeStart s = (!s.now.linkUp || s.now.txReady) := by
  simp [writeStart, hrst, hzero, hq]

/-- With the spacing over and a frame queued, a cycle is a write start or a hold cycle. -/
theorem writeStart_or_holdCycle {p : Params} {s : Engine p} (hrst : s.now.rst = false) (hzero : s.spCnt.toNat = 0)
    (hq : s.txq ≠ []) : writeStart s = true ∨ writeStart s = false ∧ holdCycle s = true := by
  rw [writeStart_of_queued hrst hzero hq]
  cases hlink : s.now.linkUp <;> cases hready : s.now.txReady <;> simp [holdCycle, hrst, hzero, hq, hlink, hready]

/-! ### The spacing counter along a run (R128, R129, R131) -/

/-- One cycle lowers the counter by at most 1: a write start, which loads it, finds it at 0. -/
theorem spCnt_le_advance {p : Params} {s : Engine p} (hrst : s.now.rst = false) :
    s.spCnt.toNat ≤ (advance s).spCnt.toNat + 1 := by
  rw [advance_spCnt s hrst]
  split
  case isTrue hstart => simp [spCnt_of_writeStart hstart]
  case isFalse => omega

/-- A counter above 0 counts down without a write start between. By induction on the cycles. -/
theorem spCnt_after {p : Params} {n : Nat} {s : Engine p} (hrun : noReset n s = true) (hn : n ≤ s.spCnt.toNat) :
    (after n s).spCnt.toNat = s.spCnt.toNat - n := by
  induction n generalizing s with
  | zero => rfl
  | succ n ih =>
    obtain ⟨hrst, hrest⟩ := noReset_succ hrun
    have hadvance : (advance s).spCnt.toNat = s.spCnt.toNat - 1 := by
      rw [advance_spCnt s hrst, writeStart_of_countdown (by omega), if_neg Bool.false_ne_true]
    rw [after_succ, ih hrest (by omega), hadvance]
    omega

/-- The next write start is at least as many cycles away as the counter says. By induction on the cycles. -/
theorem spCnt_le_of_writeStart_after {p : Params} {n : Nat} {s : Engine p} (hrun : noReset n s = true)
    (hstart : writeStart (after n s) = true) : s.spCnt.toNat ≤ n := by
  induction n generalizing s with
  | zero => exact (spCnt_of_writeStart hstart).le
  | succ n ih =>
    obtain ⟨hrst, hrest⟩ := noReset_succ hrun
    have hnext := ih hrest hstart
    have hcycle := spCnt_le_advance hrst
    omega

/-- A write start loads the counter with `S - 1` (R129, R131). -/
theorem advance_spCnt_of_writeStart {p : Params} {s : Engine p} (hrst : s.now.rst = false) (hstart : writeStart s = true) :
    (advance s).spCnt.toNat = p.spacing - 1 := by
  rw [advance_spCnt s hrst, if_pos hstart]

/-- Two write starts are at least `S` cycles apart (R134). -/
theorem spacing_le_of_writeStarts {p : Params} {n : Nat} {s : Engine p} (hn : 0 < n) (hrun : noReset n s = true)
    (hfirst : writeStart s = true) (hsecond : writeStart (after n s) = true) : p.spacing ≤ n := by
  obtain ⟨m, rfl⟩ : ∃ m, n = m + 1 := Nat.exists_eq_succ_of_ne_zero hn.ne'
  obtain ⟨hrst, hrest⟩ := noReset_succ hrun
  have hload := advance_spCnt_of_writeStart hrst hfirst
  have hwait := spCnt_le_of_writeStart_after hrest hsecond
  omega

/-- Settles O46: a write start loads the counter with `S - 1`, and the next one waits until it is 0; 60 ms by R11's ceiling. -/
theorem writeStartsAreAtLeastSpacingApart : Obligations.WriteStartsAreAtLeastSpacingApart := by
  intro p s n hn hrun hfirst hsecond
  have hspacing := spacing_le_of_writeStarts hn hrun hfirst hsecond
  exact ⟨hspacing, fun hz hS => (Scope.spacingCycles_le_iff 60 hz n).mp (hS ▸ hspacing)⟩

/-! ### Bounded waiting (R137) -/

/-- The queue after a non-reset cycle: the head leaves in a write start, the accepted entry comes last (R52, R67). -/
theorem advance_txq_accepted {p : Params} {s : Engine p} (hrst : s.now.rst = false) :
    (advance s).txq = (if writeStart s = true then s.txq.tail else s.txq) ++ acceptedEntry s := by
  rw [advance_txq s hrst, cuStep_push_toList]

/-- A cycle shortens the queue by at most its head. -/
theorem txq_length_le_advance {p : Params} {s : Engine p} (hrst : s.now.rst = false) :
    s.txq.length ≤ (advance s).txq.length + if writeStart s = true then 1 else 0 := by
  rw [advance_txq_accepted hrst, List.length_append]
  split
  · rw [List.length_tail]
    omega
  · omega

/-- R137 with the counter's value in place of its bound `S - 1`. By induction on the cycles: a countdown uses up the counter, a hold
cycle is counted by itself, and a write start moves the frame one position up at the price of `S - 1` cycles. -/
theorem waitingTime_le {p : Params} (hS : 1 ≤ p.spacing) {n : Nat} {s : Engine p} {k : Nat} (hrun : noReset n s = true)
    (hk : k < s.txq.length) (hstarts : countCycles writeStart n s ≤ k) :
    n ≤ s.spCnt.toNat + k * p.spacing + countCycles holdCycle n s := by
  induction n generalizing s k with
  | zero => exact Nat.zero_le _
  | succ n ih =>
    obtain ⟨hrst, hrest⟩ := noReset_succ hrun
    have hq : s.txq ≠ [] := List.ne_nil_of_length_pos (by omega)
    have hlength := txq_length_le_advance hrst
    have hcnt := advance_spCnt s hrst
    simp only [countCycles] at hstarts ⊢
    rcases Nat.eq_zero_or_pos s.spCnt.toNat with hzero | hpos
    · obtain hstart | ⟨hno, hhold⟩ := writeStart_or_holdCycle hrst hzero hq
      · simp only [hstart, if_true] at hstarts hlength hcnt
        obtain ⟨j, rfl⟩ : ∃ j, k = j + 1 := Nat.exists_eq_add_of_le' (by omega)
        have hnext := ih (k := j) hrest (by omega) (by omega)
        rw [Nat.succ_mul]
        omega
      · simp only [hno, hhold, Bool.false_eq_true, if_false, if_true] at hstarts hlength hcnt ⊢
        have hnext := ih (k := k) hrest (by omega) (by omega)
        omega
    · simp only [writeStart_of_countdown hpos, Bool.false_eq_true, if_false] at hstarts hlength hcnt
      have hnext := ih (k := k) hrest (by omega) (by omega)
      omega

/-- Settles O48: the counter of a state within R44 is at most `S - 1`. -/
theorem waitingTimeIsBoundedByHolds : Obligations.WaitingTimeIsBoundedByHolds := by
  intro p s k n hS hcnt hrun hk hstarts
  have hwait := waitingTime_le hS hrun hk hstarts
  omega

/-! ### No extra delay (R135) -/

/-- Settles O47: the loaded counter reaches 0 after `S` cycles and not before; an entry appended to the empty queue is its head. -/
theorem deferredFrameFiresAtTheRemainingDelay : Obligations.DeferredFrameFiresAtTheRemainingDelay := by
  intro p s
  refine ⟨fun hS hrun hstart hq hlink hready => ⟨?_, fun k hk hkS => ?_⟩, fun hrun hempty haccepted hzero hlink hready => ?_⟩
  · have hcnt : (after p.spacing s).spCnt.toNat = 0 := by
      obtain ⟨m, hm⟩ : ∃ m, p.spacing = m + 1 := Nat.exists_eq_add_of_le' hS
      obtain ⟨hrst, hrest⟩ := noReset_succ (noReset_of_le (by omega) hrun : noReset (m + 1) s = true)
      have hload := advance_spCnt_of_writeStart hrst hstart
      rw [hm, after_succ, spCnt_after hrest (by omega)]
      omega
    rw [writeStart_of_queued (rst_after hrun) hcnt hq, hlink, hready]
    rfl
  · by_contra hsecond
    have hspacing := spacing_le_of_writeStarts hk (noReset_of_le (by omega) hrun) hstart (by simpa using hsecond)
    omega
  · have hq : (after 1 s).txq ≠ [] := by
      rw [after_succ, after_zero, advance_txq_accepted (noReset_succ hrun).1, writeStart_of_empty hempty, hempty]
      exact haccepted
    rw [writeStart_of_queued (rst_after hrun) hzero hq, hlink, hready]
    rfl

/-! ### The actions of a cycle (R127 to R132) -/

/-- The scheduler reports a failed transmission exactly in a write start with the link down (R131). -/
theorem ssStep_txFail {p : Params} {s : Engine p} (hrst : s.now.rst = false) :
    (ssStep s.now s).txFail = (writeStart s && !s.now.linkUp) := by
  rw [← ssStep_pop s hrst, ssStep]
  rcases ssAction_cases s.now s with h | h | h | h | h <;> simp [h, ssWrites]

/-- A failed transmission sets TX_FAIL (R131). -/
theorem ssStep_set {p : Params} (i : Inputs) (s : Engine p) (h : (ssStep i s).txFail = true) :
    (ssStep i s).set = Sticky.txFail := by
  unfold ssStep at h ⊢
  cases hact : ssAction i s with
  | drop => rfl
  | countdown | idle | writeStart | hold => simp [hact, ssWrites] at h

/-- Outside reset `ev_tx_fail` carries SS's report (R33). -/
theorem evTxFail_of_run {s : State} (hrst : s.now.rst = false) :
    s.outputs.evTxFail = (writeStart s.toEngine && !s.now.linkUp) := by
  rw [← ssStep_txFail hrst]
  show (!s.now.rst && _) = _
  rw [hrst]
  rfl

/-- Outside reset `tx_valid` asks for the link, a queued frame and the end of the spacing (R30). -/
theorem txValid_of_run {s : State} (hrst : s.now.rst = false) :
    s.outputs.txValid = (s.now.linkUp && !s.txq.isEmpty && s.spCnt.toNat == 0) := by
  show (!s.now.rst && _ && _ && _) = _
  rw [hrst]
  rfl

/-- A dropped frame leaves TX_FAIL set, whatever CLRST clears in the cycle (R131, R52). -/
theorem txFail_of_drop {p : Params} {s : Engine p} (hrst : s.now.rst = false) (hstart : writeStart s = true)
    (hlink : s.now.linkUp = false) : (advance s).st.getLsbD 6 = true := by
  have hset : (ssStep s.now s).set = Sticky.txFail := ssStep_set _ _ (by rw [ssStep_txFail hrst, hstart, hlink]; rfl)
  have hbit : Sticky.txFail.getLsbD 6 = true := by decide
  rw [advance_of_run hrst, Engine.nextRow_st, combine_st, hset]
  simp only [BitVec.getLsbD_or, hbit, Bool.or_true, Bool.true_or]

/-- Settles O44: which condition holds decides whether the cycle is a write start, and that decides the counter and the queue. -/
theorem schedulerActsByTheFirstCondition : Obligations.SchedulerActsByTheFirstCondition := by
  intro s t hrst ht new S
  cases (Scope.step_eq_advance s).symm.trans ht
  have hcnt := advance_spCnt s.toEngine hrst
  have htxq := advance_txq_accepted hrst
  rw [evTxFail_of_run hrst, txValid_of_run hrst]
  refine ⟨fun hpos => ?_, fun hzero hempty => ?_, fun h rest hzero hq hlink => ?_, fun h rest hzero hq hlink hready => ?_,
    fun h rest hzero hq hlink hready => ?_⟩
  · have hno := writeStart_of_countdown hpos
    rw [hno] at hcnt htxq ⊢
    exact ⟨hcnt, htxq, by simp [Nat.ne_of_gt hpos], rfl⟩
  · have hno := writeStart_of_empty hempty
    rw [hno] at hcnt htxq ⊢
    exact ⟨by simpa [hzero] using hcnt, by simpa [hempty] using htxq, by simp [hempty], rfl⟩
  · have hstart : writeStart s.toEngine = true := by
      rw [writeStart_of_queued hrst hzero (by simp [hq]), hlink]; rfl
    have hfail := txFail_of_drop hrst hstart hlink
    rw [hstart, hq] at htxq
    rw [hstart] at hcnt ⊢
    exact ⟨hcnt, htxq, by simp [hlink], by simp [hlink], hfail⟩
  · have hstart : writeStart s.toEngine = true := by
      rw [writeStart_of_queued hrst hzero (by simp [hq]), hlink, hready]; rfl
    rw [hstart, hq] at htxq
    rw [hstart] at hcnt ⊢
    exact ⟨hcnt, htxq, by simp [hlink, hq, hzero], by simp [hlink]⟩
  · have hno : writeStart s.toEngine = false := by
      rw [writeStart_of_queued hrst hzero (by simp [hq]), hlink, hready]; rfl
    rw [hno] at hcnt htxq ⊢
    exact ⟨by simpa [hzero] using hcnt, htxq, by simp [hlink, hq, hzero], rfl⟩

/-! ### SEND (R126) -/

theorem sendWrites_of_le (a : Byte) {l : Byte} (d : Bytes 11) (h : l.toNat ≤ 8) :
    sendWrites a l d = { completed (frameResult 0x3 a (prefixBytes d l.toNat)) with
      push := some (TxEntry.ofPayload a (prefixBytes d l.toNat)) } := by
  rw [sendWrites, payloadOperand_of_le d h]

theorem sendWrites_of_gt (a : Byte) {l : Byte} (d : Bytes 11) (h : 8 < l.toNat) :
    sendWrites a l d = completed (plainResult 0x3 .payloadLen 0) := by
  rw [sendWrites, payloadOperand_of_gt d h]

/-- A command that completes with `res_code` 0 and queues an entry. -/
theorem applyCu_completed_push {p : Params} (s : Engine p) (r : Result) (e : TxEntry) (h : r.code = .ok) :
    applyCu s { completed r with push := some e } = { s with res := r, txq := s.txq ++ [e] } := by
  simp [applyCu, completed, cmdErrMask, h, and_allOnes8]

/-- While the queue is not full, SEND does its writes (R26, R126). -/
theorem exec_send_of_room (a l : Byte) (d : Bytes 11) {s : State} (hroom : s.txq.length ≠ Config.params.txqDepth) :
    exec (.send a l d) s = .next { toEngine := applyCu s.toEngine (sendWrites a l d) } := by
  rw [exec, execSend, if_neg (mt s.queueFull_iff.mp hroom)]

/-- Settles O22: SEND completes with the frame of its operand and pushes its entry, or completes with E_PAYLOAD_LEN. -/
theorem sendQueuesTheFrame : Obligations.SendQueuesTheFrame := by
  intro a l d s hroom f
  rw [exec_send_of_room a l d hroom]
  refine ⟨fun hl => ?_, fun hl => ?_⟩
  · have hlen : (prefixBytes d l.toNat).length = l.toNat := by rw [prefixBytes_length]; omega
    rw [sendWrites_of_le a d hl, applyCu_completed_push _ _ _ rfl, frameResult_eq 0x3 a hlen, ofPayload_prefixBytes a d hl,
      BitVec.ofNat_toNat]
    rfl
  · rw [sendWrites_of_gt a d hl, applyCu_completed_err _ _ (by decide)]
    rfl

end Sys2Proof.Proofs.Scheduler
end

section
/-! PROOFS. The control commands of 43_control.md: NOP (R139), CLRST (R140), the reserved opcodes (R141), when a result appears (R142),
and the sticky bits (R143, R52). -/

namespace Sys2Proof.Proofs.Control

open Sys2Proof.Machine Sys2Proof.Proofs.State Sys2Proof.Proofs.Encoding Sys2Proof.Proofs.Reader Sys2Proof.Proofs.Scheduler

/-! ### The commands alone (R139 to R141) -/

/-- Settles O19: NOP completes with code 0 and has no other effect. -/
theorem nopClearsTheResult : Obligations.NopClearsTheResult := by
  intro a l d s
  rw [exec, execNop, nopWrites, applyCu_completed_ok _ _ rfl]
  rfl

/-- CLRST's writes at a state: its result, and the mask's bits cleared; it sets none (R140). -/
theorem applyCu_clrstWrites {p : Params} (s : Engine p) (d : Bytes 11) :
    applyCu s (clrstWrites d) = { s with st := s.st &&& ~~~d[0], res := plainResult 0x4 .ok 0 } := by
  simp [applyCu, clrstWrites, completed, cmdErrMask, plainResult, maskOperand]

/-- Settles O24: CLRST is its writes at the state. -/
theorem clrstClearsTheMaskedBits : Obligations.ClrstClearsTheMaskedBits := by
  intro a l d s
  rw [exec, execClrst, applyCu_clrstWrites]
  rfl

/-- A reserved opcode's writes at a state: an error result, and CMD_ERR with it (R141). -/
theorem applyCu_reservedWrites {p : Params} (s : Engine p) (op : BitVec 4) :
    applyCu s (reservedWrites op) = { s with st := s.st ||| 0x80, res := plainResult op .illegalOp 0 } :=
  applyCu_completed_err s _ (by decide : ResCode.illegalOp ≠ .ok)

/-- Settles O25: the three rows have the same writes, and `cmd_ready` is withheld from opcode 3 alone. -/
theorem reservedOpcodesReportIllegalOp : Obligations.ReservedOpcodesReportIllegalOp := by
  intro op a l d s t
  obtain ⟨hready, -, -, -⟩ := portsAreReadyAndValidAsTheRulesSay s
  refine ⟨?_, ?_, ?_, fun hrst hop => hready.mpr ⟨hrst, fun ⟨hsend, _⟩ => ?_⟩⟩
  · rw [exec, execRsv5, applyCu_reservedWrites]
    rfl
  · rw [exec, execRsv67, applyCu_reservedWrites]
    rfl
  · rw [exec, execRsv8f, applyCu_reservedWrites]
    rfl
  · exact absurd hop (by rw [hsend]; decide)

/-! ### CU's masks in a cycle (R52) -/

/-- No command but CLRST has a clear mask. -/
theorem cuStep_clear_of_not_clrst {p : Params} {i : Inputs} (s : Engine p) (hop : i.cmdOp ≠ 0x4) : (cuStep i s).clear = 0 := by
  have hsend : (sendWrites i.cmdAddr i.cmdLen i.cmdData).clear = 0 := by
    obtain ⟨r, hw⟩ | ⟨r, payload, -, hw⟩ := sendWrites_completed i.cmdAddr i.cmdLen i.cmdData <;> rw [hw] <;> rfl
  obtain ⟨r, hbuild⟩ := buildWrites_completed i.cmdAddr i.cmdLen i.cmdData
  obtain ⟨r', hcksum⟩ := cksumWrites_completed i.cmdLen i.cmdData
  unfold cuStep
  rw [hbuild, hcksum, if_neg hop]
  split_ifs
  exacts [rfl, rfl, rfl, hsend, rfl, rfl]

/-- Outside reset a CLRST that is presented transfers (R26). -/
theorem cmdXfer_of_clrst {p : Params} {i : Inputs} (s : Engine p) (hrst : i.rst = false) (hop : i.cmdOp = 0x4) :
    cmdXfer i s = i.cmdValid := by
  simp [cmdXfer, cmdReady, hrst, hop]

/-- CU clears a sticky bit exactly when a CLRST is presented whose mask has it (R140). -/
theorem cuStep_clear_iff {p : Params} {i : Inputs} (s : Engine p) (hrst : i.rst = false) (k : Nat) :
    (cuStep i s).clear.getLsbD k = true ↔ i.cmdValid = true ∧ i.cmdOp = 0x4 ∧ i.cmdData[0].getLsbD k = true := by
  by_cases hop : i.cmdOp = 0x4
  · have hxfer := cmdXfer_of_clrst s hrst hop
    cases hvalid : i.cmdValid with
    | true => simp [cuStep, hxfer, hvalid, hop, clrstWrites, maskOperand]
    | false => simp [cuStep, hxfer, hvalid, noTransfer]
  · rw [cuStep_clear_of_not_clrst s hop]
    exact iff_of_false (by simp) fun ⟨_, hclrst, _⟩ => hop hclrst

/-- CU sets CMD_ERR with a result whose code is not 0, and no other sticky bit (R142). -/
theorem cuStep_set {p : Params} (i : Inputs) (s : Engine p) :
    (cuStep i s).set =
      if (cuStep i s).result.valid = true ∧ (cuStep i s).result.code ≠ .ok then Sticky.cmdErr else 0 := by
  obtain ⟨hvalid, hidle, hdone⟩ := cuStep_result i s
  cases hxfer : cmdXfer i s with
  | true =>
    obtain ⟨-, hset⟩ := hdone hxfer
    simp [hset, cmdErrMask, hvalid, hxfer]
  | false => simp [hidle hxfer, noTransfer]

/-! ### The masks of RD and SS in a cycle (R52) -/

/-- RD sets the bit of the event it reports, and RD_CLOSED for an end of stream that a read failure hides (R105). -/
theorem rdStep_set {p : Params} (i : Inputs) (s : Engine p) :
    (rdStep i s).set =
      eventMask (rdStep i s).event ||| (if i.linkUp = true ∧ i.rxEos = true then Sticky.rdClosed else 0) := by
  unfold rdStep
  rw [rdHandshake_set, rdHandshake_event]
  cases hlink : i.linkUp with
  | false => simp [rdLinkDown, eventMask]
  | true =>
    cases herr : i.rxErr <;> cases heos : i.rxEos
    · simp only [Bool.true_eq_false, Bool.false_eq_true, or_self, and_false, if_false]
      split_ifs <;> simp [rdNothing, rdDrainEnd, byteRule_set, eventMask]
    all_goals simp [rdStreamEnd, eventMask]

/-- SS sets TX_FAIL with the drop it reports, and no other sticky bit (R131). -/
theorem ssStep_set_eq {p : Params} (i : Inputs) (s : Engine p) :
    (ssStep i s).set = if (ssStep i s).txFail = true then Sticky.txFail else 0 := by
  unfold ssStep
  cases ssAction i s <;> rfl

/-! ### The sticky bits after a cycle (R143) -/

/-- The bit of each reader event in its mask. -/
theorem eventMask_getLsbD (e : RdEvent) :
    ((eventMask e).getLsbD 0 = true ↔ e = .badStx)
    ∧ ((eventMask e).getLsbD 1 = true ↔ e = .lenFallback)
    ∧ ((eventMask e).getLsbD 2 = true ↔ e = .badCksum)
    ∧ ((eventMask e).getLsbD 3 = true ↔ e = .badEtx)
    ∧ ((eventMask e).getLsbD 4 = true ↔ e = .closed)
    ∧ ((eventMask e).getLsbD 5 = true ↔ e = .ioErr)
    ∧ (eventMask e).getLsbD 6 = false ∧ (eventMask e).getLsbD 7 = false := by
  cases e <;> decide

/-- The place of each sticky bit that RD, SS and CU set beside those of `eventMask` (R46). -/
theorem sticky_getLsbD (k : Nat) :
    (Sticky.rdClosed.getLsbD k = true ↔ k = 4) ∧ (Sticky.txFail.getLsbD k = true ↔ k = 6)
    ∧ (Sticky.cmdErr.getLsbD k = true ↔ k = 7) := by
  have hclosed : Sticky.rdClosed = BitVec.twoPow 8 4 := by decide
  have hfail : Sticky.txFail = BitVec.twoPow 8 6 := by decide
  have herr : Sticky.cmdErr = BitVec.twoPow 8 7 := by decide
  simp [hclosed, hfail, herr, BitVec.getLsbD_twoPow, eq_comm]

theorem getLsbD_ite_zero {c : Prop} [Decidable c] (m : BitVec 8) (k : Nat) :
    (if c then m else 0).getLsbD k = true ↔ c ∧ m.getLsbD k = true := by
  split_ifs with h <;> simp [h]

/-- The cycle's set mask, to which all three units contribute (R52). -/
def setMask {p : Params} (s : Engine p) : BitVec 8 := (rdStep s.now s).set ||| (ssStep s.now s).set ||| (cuStep s.now s).set

/-- After a non-reset cycle a sticky bit is 1 when the cycle sets it, or when it was 1 and CU does not clear it: set wins over clear
(R52). -/
theorem advance_st_iff {p : Params} {s : Engine p} (hrst : s.now.rst = false) {k : Nat} (hk : k < 8) :
    (advance s).st.getLsbD k = true ↔
      (setMask s).getLsbD k = true ∨ s.st.getLsbD k = true ∧ ¬ (cuStep s.now s).clear.getLsbD k = true := by
  rw [advance_of_run hrst, Engine.nextRow_st, combine_st, BitVec.getLsbD_or, Bool.or_eq_true, or_comm, setMask]
  simp [hk]

/-- The set mask bit by bit: RD's event, an end of stream, SS's drop, an error result (R143). -/
theorem setMask_getLsbD {p : Params} (s : Engine p) (k : Nat) :
    (setMask s).getLsbD k = true ↔
      (((eventMask (rdStep s.now s).event).getLsbD k = true ∨ (s.now.linkUp = true ∧ s.now.rxEos = true) ∧ k = 4)
        ∨ (ssStep s.now s).txFail = true ∧ k = 6)
        ∨ ((cuStep s.now s).result.valid = true ∧ (cuStep s.now s).result.code ≠ .ok) ∧ k = 7 := by
  obtain ⟨hclosed, hfail, herr⟩ := sticky_getLsbD k
  rw [setMask, rdStep_set, ssStep_set_eq, cuStep_set]
  simp only [BitVec.getLsbD_or, Bool.or_eq_true, getLsbD_ite_zero, hclosed, hfail, herr]

/-- The events that set each sticky bit (R143). -/
theorem setMask_iff {p : Params} (s : Engine p) :
    ((setMask s).getLsbD 0 = true ↔ (rdStep s.now s).event = .badStx)
    ∧ ((setMask s).getLsbD 1 = true ↔ (rdStep s.now s).event = .lenFallback)
    ∧ ((setMask s).getLsbD 2 = true ↔ (rdStep s.now s).event = .badCksum)
    ∧ ((setMask s).getLsbD 3 = true ↔ (rdStep s.now s).event = .badEtx)
    ∧ ((setMask s).getLsbD 4 = true ↔ s.now.linkUp = true ∧ s.now.rxEos = true)
    ∧ ((setMask s).getLsbD 5 = true ↔ s.now.linkUp = true ∧ s.now.rxErr = true)
    ∧ ((setMask s).getLsbD 6 = true ↔ (ssStep s.now s).txFail = true)
    ∧ ((setMask s).getLsbD 7 = true ↔ (cuStep s.now s).result.valid = true ∧ (cuStep s.now s).result.code ≠ .ok) := by
  obtain ⟨h0, h1, h2, h3, h4, h5, h6, h7⟩ := eventMask_getLsbD (rdStep s.now s).event
  obtain ⟨hclosed, hioErr⟩ := rdStep_streamEvent_iff s.now s
  simp only [setMask_getLsbD, h0, h1, h2, h3, h4, h5, h6, h7, hclosed, hioErr]
  refine ⟨by simp, by simp, by simp, by simp, ?_, by simp, by simp, by simp⟩
  simpa using fun hlink _ heos => ⟨hlink, heos⟩

/-- Outside reset `ev_rd` has an event's code exactly when RD reports that event (R33, R91). -/
theorem evRd_eq_code_iff {s : State} (hrst : s.now.rst = false) (e : RdEvent) :
    s.outputs.evRd = e.code ↔ (rdStep s.now s.toEngine).event = e := by
  rw [evRd_of_run hrst, rdEvent_code_injective.eq_iff]

/-- Outside reset `ev_tx_fail` is SS's report (R33). -/
theorem evTxFail_eq_ssStep {s : State} (hrst : s.now.rst = false) : s.outputs.evTxFail = (ssStep s.now s.toEngine).txFail := by
  rw [evTxFail_of_run hrst, ssStep_txFail hrst]

/-- The result registers after a non-reset cycle are CU's (R50). -/
theorem advance_res {p : Params} {s : Engine p} (hrst : s.now.rst = false) : (advance s).res = (cuStep s.now s).result := by
  rw [advance_of_run hrst, Engine.nextRow_res, combine_res]

/-- Settles O52: the set mask bit by bit, with each unit's report read at its output, and the clear mask of CLRST. -/
theorem stickyBitsAreSetByEventsAndClearedByClrst : Obligations.StickyBitsAreSetByEventsAndClearedByClrst := by
  intro s t hrst ht cleared kept
  cases (Scope.step_eq_advance s).symm.trans ht
  have hbit {k : Nat} {event : Prop} (hk : k < 8) (hset : (setMask s.toEngine).getLsbD k = true ↔ event) :
      (advance s.toEngine).st.getLsbD k = true ↔ event ∨ kept k := by
    rw [advance_st_iff hrst hk, hset, cuStep_clear_iff s.toEngine hrst]
  obtain ⟨hbadStx, hlenFallback, hbadCksum, hbadEtx, heos, herr, hfail, hcmdErr⟩ := setMask_iff s.toEngine
  refine ⟨hbit (by decide) (hbadStx.trans (evRd_eq_code_iff hrst .badStx).symm),
    hbit (by decide) (hlenFallback.trans (evRd_eq_code_iff hrst .lenFallback).symm),
    hbit (by decide) (hbadCksum.trans (evRd_eq_code_iff hrst .badCksum).symm),
    hbit (by decide) (hbadEtx.trans (evRd_eq_code_iff hrst .badEtx).symm),
    hbit (by decide) heos, hbit (by decide) herr, hbit (by decide) ?_, hbit (by decide) ?_⟩
  · rw [evTxFail_eq_ssStep hrst, hfail]
  · rw [advance_res hrst, hcmdErr]

/-! ### The result registers after a cycle (R142) -/

/-- Settles O28: the result registers are CU's, and CMD_ERR is the sticky bit its result sets. -/
theorem resultAppearsExactlyAfterATransfer : Obligations.ResultAppearsExactlyAfterATransfer := by
  intro s t hrst ht
  cases (Scope.step_eq_advance s).symm.trans ht
  obtain ⟨hvalid, hidle, hdone⟩ := cuStep_result s.now s.toEngine
  obtain ⟨-, -, -, -, -, -, -, hcmdErr⟩ := setMask_iff s.toEngine
  rw [advance_res hrst, advance_st_iff hrst (by decide), hcmdErr]
  refine ⟨hvalid, fun hnone => ?_, fun hsome => (hdone (hvalid.symm.trans hsome)).1, fun hsome herror => .inl ⟨hsome, herror⟩⟩
  rw [hidle (hvalid.symm.trans hnone)]
  rfl

end Sys2Proof.Proofs.Control
end

section
/-! PROOFS. The reset cycle of 70_reset_and_hazards.md: it loads every reset value (R53, R157), and every ready, valid and event
output is 0 in it (R34). -/

namespace Sys2Proof.Proofs.Reset

open Sys2Proof.Machine

/-! ### The next state (R53, R157) -/

/-- A reset cycle loads the register groups' reset values and uses up one input row, a free one where none is listed (log 1). -/
theorem resetCycle_eq {p : Params} (s : Engine p) :
    s.resetCycle =
      { rd := Reader.reset, rxf := RxFrame.reset, txq := [], spCnt := 0, st := 0, res := Result.reset
        env := s.env.tail, drawn := if s.env = [] then s.drawn + 1 else s.drawn } := by
  simp [Engine.resetCycle, Engine.reset, Engine.nextRow]

/-- A step in a reset cycle is the reset cycle and nothing else. -/
theorem step_of_reset {s : State} (hrst : s.now.rst = true) : step s = .next { toEngine := s.resetCycle } := by
  rw [Scope.step_eq_advance, advance_of_reset hrst]

/-! ### The outputs (R34) -/

/-- Each of the four handshake outputs asks for a cycle without reset. -/
theorem readyAndValid_of_reset {s : State} (hrst : s.now.rst = true) :
    s.outputs.cmdReady = false ∧ s.outputs.rxReady = false ∧ s.outputs.rxfValid = false ∧ s.outputs.txValid = false := by
  simpa [hrst] using State.portsAreReadyAndValidAsTheRulesSay s

/-- A reset cycle hides the reader's event. -/
theorem evRd_of_reset {s : State} (hrst : s.now.rst = true) : s.outputs.evRd = 0 := by
  have hnone : evRd s.now s.toEngine = .none := if_pos hrst
  exact congrArg RdEvent.code hnone

/-- A reset cycle hides the scheduler's drop event. -/
theorem evTxFail_of_reset {s : State} (hrst : s.now.rst = true) : s.outputs.evTxFail = false := by
  simp [State.outputs, outputsWith, evTxFail, hrst]

/-- Settles O13: the step is the reset cycle, and every output named asks for a cycle without reset. -/
theorem resetCycleLoadsEveryResetValue : Obligations.ResetCycleLoadsEveryResetValue := by
  intro s hrst
  obtain ⟨hcmd, hrx, hrxf, htx⟩ := readyAndValid_of_reset hrst
  refine ⟨?_, hcmd, hrx, hrxf, htx, evRd_of_reset hrst, evTxFail_of_reset hrst⟩
  rw [step_of_reset hrst, resetCycle_eq]
  rfl

end Sys2Proof.Proofs.Reset
end
